-- ==== Sys2Proof/Word.lean ====
section
/-! DEFINITION. The word types of the block and the two small register types that decoding reads. -/

namespace Sys2Proof

/-- A byte: a frame-buffer cell, a received byte, an output byte (20_memory.md R50). -/
abbrev Byte := BitVec 8

/-- A pixel value, 0 to 15 (30_encoding.md R80). -/
abbrev Pixel := BitVec 4

/-- An event word of format EV10 (30_encoding.md R90). -/
abbrev EvWord := BitVec 10

/-- `tseq`, the place of the sequencer inside one tick (10_state.md R28); the code 0b11 is not representable. -/
inductive TSeq where
  | idle
  | wait0
  | wait1
deriving DecidableEq, Repr

/-- `phase`, the loader's phase (10_state.md R25). -/
inductive Phase where
  | seeking
  | copying
deriving DecidableEq, Repr

end Sys2Proof
end

