-- ==== Sys2Proof/Config.lean ====
section
/-! DEFINITION. The constants of the block (00_scope.md R6 to R12), the parameters of one build of it, and the free
values. An `opaque` constant has no body: nothing is known of it but its type. -/

namespace Sys2Proof.Config

/-- Pixels per row (00_scope.md R6). -/
def columns : Nat := 16

/-- Bytes per row (00_scope.md R6). -/
def bytesPerRow : Nat := 8

/-- Bits per pixel (00_scope.md R6). -/
def pixelBits : Nat := 4

/-- Perceived brightness levels (00_scope.md R6). -/
def levels : Nat := 16

/-- Ramp levels, the passes per row (00_scope.md R7). -/
def levels1 : Nat := levels - 1

/-- The marker `DE AD BE EF 01 02` (00_scope.md R9). -/
def marker : Vector Byte 6 := #v[0xDE, 0xAD, 0xBE, 0xEF, 0x01, 0x02]

/-- `MARKER[k]`. -/
def markerByte (k : Fin 6) : Byte := marker[k]

/-- What every buffer byte holds after reset, hence what a byte not listed in `fb` reads as (10_state.md R24). -/
def resetByte : Byte := 0xFF

/-- The refresh rate, with no value in the source and read by no rule (00_scope.md R10, log 24). -/
opaque fps : Nat

/-- Uninterpreted; `N1` is made of it (log 5). -/
opaque rawN1 : Nat

/-- Uninterpreted; `N2` is made of it (log 5). -/
opaque rawN2 : Nat

/-- `SEL_SHIFT`, open (41_row_select.md R122, log 5). -/
opaque selShift : Nat

/-- Uninterpreted; `PORT_W` is made of it (log 6). -/
opaque rawPortW : Nat

/-- Three port values of `w` bits. -/
abbrev PortBits (w : Nat) := BitVec w × BitVec w × BitVec w

/-- The uninterpreted part of `PORT_ENCODE`: any rearrangement of the port triples whatever (41_row_select.md R124,
log 6). -/
opaque portPerm (w : Nat) : Equiv.Perm (PortBits w)

/-- The free values of `P0..P2` between RESET and the first SEL, one triple per draw (10_state.md R31, log 7). -/
opaque freeBits (w draw : Nat) : PortBits w

/-- The three output port values, format PORT3, each below `2 ^ PORT_W` (30_encoding.md R89). -/
structure Port3 where
  p0 : Nat
  p1 : Nat
  p2 : Nat
deriving DecidableEq, Repr

/-- The port values of three bit patterns. -/
def portValues {w : Nat} (b : PortBits w) : Port3 := ⟨b.1.toNat, b.2.1.toNat, b.2.2.toNat⟩

end Sys2Proof.Config

namespace Sys2Proof

/-- The build parameters that are plain values, fixed for one machine: `ROWS` (00_scope.md R8, log 4) and `M0_RESTART`
(00_scope.md R11, 42_ingestion.md R133, log 8). -/
structure Build where
  rows      : Nat
  m0Restart : Bool
deriving DecidableEq, Repr

/-- The build this hardware is: 48 rows, `M0_RESTART` at its default (00_scope.md R8, R11). -/
def Build.standard : Build := { rows := 48, m0Restart := true }

/-- The builds the spec admits: at least one row in each of three banks (00_scope.md R8). -/
abbrev Build.legal (b : Build) : Prop := 3 ≤ b.rows

/-- `CAPACITY`, the bytes of the frame buffer (00_scope.md R8). -/
def Build.capacity (b : Build) : Nat := b.rows * Config.bytesPerRow

/-- `CYCLE_TICKS`, the ticks of one full grid refresh (00_scope.md R8). -/
def Build.cycleTicks (b : Build) : Nat := b.rows * Config.levels1

/-- `F_tick`, a parameter of the timer collaborator (00_scope.md R10). -/
def Build.tickRate (b : Build) : Nat := Config.levels1 * b.rows * Config.fps

/-- The bits of a row number, `ROW_W = ceil(log2 ROWS)` (00_scope.md R12). -/
def Build.rowBits (b : Build) : Nat := Nat.log2 (b.rows - 1) + 1

/-- The bits of a buffer offset, `OFF_W = ceil(log2 CAPACITY)` (00_scope.md R12). -/
def Build.offsetBits (b : Build) : Nat := Nat.log2 (b.capacity - 1) + 1

/-- `N1`: any value with `0 < N1 < ROWS - 1`, so that an `N2` is left (41_row_select.md R121, log 5). -/
def Build.bankN1 (b : Build) : Nat := 1 + Config.rawN1 % (b.rows - 2)

/-- `N2`: any value with `N1 < N2 < ROWS` (41_row_select.md R121, log 5). -/
def Build.bankN2 (b : Build) : Nat := b.bankN1 + 1 + Config.rawN2 % (b.rows - 1 - b.bankN1)

/-- `PORT_W`: any width that leaves room for an injective `PORT_ENCODE` of the rows (log 6). -/
def Build.portW (b : Build) : Nat := (b.rowBits + 2) / 3 + Config.rawPortW

/-- The free port values of one draw (10_state.md R31, log 7). -/
def Build.freePorts (b : Build) (draw : Nat) : Config.Port3 := Config.portValues (Config.freeBits b.portW draw)

/-- The abstract enable pattern, format ENPAT: the active bank and the value on its select lines
(30_encoding.md R88). -/
structure Enpat where
  bank : Fin 3
  sel  : Nat
deriving DecidableEq, Repr

end Sys2Proof
end

