-- ==== Sys2Proof/Syntax.lean ====
section
/-! DEFINITION. The operations of the block, one constructor per row of spec/opcode_table.json (30_encoding.md R95). -/

namespace Sys2Proof

/-- The 34 operations: 14 events, 12 sub-steps, 8 datapath primitives. Offsets and rows are numbers, since their width
follows from the number of rows of the build (30_encoding.md R95). -/
inductive Instr where
  /-- RESET (70_reset_and_hazards.md R210). -/
  | reset
  /-- TICK (43_refresh.md R150). -/
  | tick
  /-- TXDONE.W0 (43_refresh.md R158). -/
  | txdoneW0
  /-- TXDONE.W1 (43_refresh.md R159). -/
  | txdoneW1
  /-- RX.M0, marker byte 0 matched (42_ingestion.md R131). -/
  | rxM0
  /-- RX.M1 (42_ingestion.md R131). -/
  | rxM1
  /-- RX.M2 (42_ingestion.md R131). -/
  | rxM2
  /-- RX.M3 (42_ingestion.md R131). -/
  | rxM3
  /-- RX.M4 (42_ingestion.md R131). -/
  | rxM4
  /-- RX.M5, the last marker byte matched (42_ingestion.md R132). -/
  | rxM5
  /-- RX.RESTART, a mismatch whose byte is M0 (42_ingestion.md R133). -/
  | rxRestart
  /-- RX.MISS, any other mismatch (42_ingestion.md R138). -/
  | rxMiss (d : Byte)
  /-- RX.COPY, a payload byte other than the last (42_ingestion.md R134). -/
  | rxCopy (d : Byte)
  /-- RX.COPYLAST, the payload byte that fills the buffer (42_ingestion.md R135). -/
  | rxCopyLast (d : Byte)
  /-- R.FILL, sub-step 1 of RESET (70_reset_and_hazards.md R211). -/
  | rFill
  /-- R.INIT, sub-step 2 of RESET (70_reset_and_hazards.md R214). -/
  | rInit
  /-- R.ENABLE, sub-step 3 of RESET (70_reset_and_hazards.md R212). -/
  | rEnable
  /-- T.ADVANCE, sub-step 1 of TICK (43_refresh.md R152). -/
  | tAdvance
  /-- T.FETCH, sub-step 2 of TICK (43_refresh.md R153). -/
  | tFetch
  /-- T.THRESH, sub-step 3 of TICK (43_refresh.md R154). -/
  | tThresh
  /-- T.PACK, sub-step 4 of TICK (43_refresh.md R155). -/
  | tPack
  /-- T.TX0, sub-step 5 of TICK (43_refresh.md R157). -/
  | tTx0
  /-- T.TX1, sub-step 1 of TXDONE.W0 (43_refresh.md R172). -/
  | tTx1
  /-- T.STBHI, sub-step 1 of TXDONE.W1 (43_refresh.md R160). -/
  | tStbHi
  /-- T.SEL, sub-step 2 of TXDONE.W1 (43_refresh.md R161). -/
  | tSel
  /-- T.STBLO, sub-step 3 of TXDONE.W1 (43_refresh.md R162). -/
  | tStbLo
  /-- FB_READ at the linear offset `o` (40_framebuffer.md R110). -/
  | fbRead (o : Nat)
  /-- FB_WRITE of `d` at the linear offset `o` (40_framebuffer.md R111). -/
  | fbWrite (o : Nat) (d : Byte)
  /-- PIX_LO of the PIXBYTE `b` (40_framebuffer.md R112). -/
  | pixLo (b : Byte)
  /-- PIX_HI of the PIXBYTE `b` (40_framebuffer.md R113). -/
  | pixHi (b : Byte)
  /-- PIX_PACK of the second and the first pixel (40_framebuffer.md R114). -/
  | pixPack (hi lo : Pixel)
  /-- FB_PIXEL at row `r`, column `c` (40_framebuffer.md R115). -/
  | fbPixel (r : Nat) (c : BitVec 4)
  /-- LANE_GT of the pixel value `v` and the level `l` (43_refresh.md R156). -/
  | laneGt (v l : BitVec 4)
  /-- SELECT of the row `r` (41_row_select.md R120). -/
  | select (r : Nat)
deriving DecidableEq, Repr

end Sys2Proof
end

