-- ==== Sys2Proof/WellFormed.lean ====
section
/-! DEFINITION. Which operations are well formed: every operand inside the domain its rule gives it. -/

namespace Sys2Proof

/-- A linear offset is below CAPACITY (20_memory.md R51). -/
def offsetOk (b : Build) (o : Nat) : Bool := decide (o < b.capacity)

/-- A row index is below ROWS (40_framebuffer.md R115, 41_row_select.md R120). -/
def rowOk (b : Build) (r : Nat) : Bool := decide (r < b.rows)

/-- A ramp level is below 15 (43_refresh.md R156; the value 15 never occurs, 30_encoding.md R93). -/
def levelOk (l : BitVec 4) : Bool := decide (l.toNat < Config.levels1)

/-- The byte of an RX.MISS: with M0_RESTART a mismatching M0 is RX.RESTART (42_ingestion.md R138). -/
def missByteOk (b : Build) (d : Byte) : Bool := !(decide (d = Config.markerByte 0) && b.m0Restart)

/-- The well-formed operations of a build. -/
def Instr.wellFormed (b : Build) : Instr → Bool
  | .reset | .tick | .txdoneW0 | .txdoneW1 => true
  | .rxM0 | .rxM1 | .rxM2 | .rxM3 | .rxM4 | .rxM5 => true
  | .rxRestart => b.m0Restart
  | .rxMiss d => missByteOk b d
  | .rxCopy _ | .rxCopyLast _ => true
  | .rFill | .rInit | .rEnable => true
  | .tAdvance | .tFetch | .tThresh | .tPack | .tTx0 | .tTx1 | .tStbHi | .tSel | .tStbLo => true
  | .fbRead o => offsetOk b o
  | .fbWrite o _ => offsetOk b o
  | .pixLo _ | .pixHi _ | .pixPack _ _ => true
  | .fbPixel r _ => rowOk b r
  | .laneGt _ l => levelOk l
  | .select r => rowOk b r

end Sys2Proof
end

