-- ==== Sys2Proof/Decode.lean ====
section
/-! DEFINITION. The event word EV10 and the operation it performs in a state, the operand patterns of the sub-steps
and the datapath primitives, and the encoder written from the same tables (30_encoding.md sections 5 and 6). -/

namespace Sys2Proof

/-! ## Events and their words -/

/-- The four input events (00_scope.md R13). -/
inductive Event where
  | reset
  | tick
  | rx (d : Byte)
  | txdone
deriving DecidableEq, Repr

/-- Why a word names no operation. -/
inductive DecodeError where
  /-- An EV10 word of kind RESET, TICK or TXDONE with `d` other than 0 (30_encoding.md R92). -/
  | reservedWord (w : EvWord)
  /-- Fewer than the two bytes that carry an EV10 word (log 17). -/
  | shortContainer
  /-- A bit above bit 9 of the two bytes that carry an EV10 word is set (log 17). -/
  | containerBits
  /-- The owner has no sub-step of this number (30_encoding.md R95). -/
  | noSubStep (k : Nat)
  /-- An operand outside its rule's domain (30_encoding.md R93). -/
  | outOfDomain
deriving DecidableEq, Repr

/-- What decoding reads of the state (30_encoding.md R91), with the parameters of the build. -/
structure DecodeMode where
  build       : Build
  tseq        : TSeq
  phase       : Phase
  step        : Fin 6
  writeOffset : Nat
deriving DecidableEq, Repr

/-- The field `kind`, bits 9:8 (30_encoding.md R90). -/
def evKind (w : EvWord) : BitVec 2 := w.extractLsb' 8 2

/-- The field `d`, bits 7:0 (30_encoding.md R90). -/
def evByte (w : EvWord) : Byte := w.extractLsb' 0 8

/-- The event an EV10 word names, or its rejection (30_encoding.md R90, R92). -/
def decodeEvent (w : EvWord) : Except DecodeError Event :=
  if evKind w = 2 then .ok (.rx (evByte w))
  else if evByte w ≠ 0 then .error (.reservedWord w)
  else if evKind w = 0 then .ok .reset
  else if evKind w = 1 then .ok .tick
  else .ok .txdone

/-- The EV10 word of an event (30_encoding.md R90). -/
def encodeEvent : Event → EvWord
  | .reset  => 0b0000000000
  | .tick   => 0b0100000000
  | .rx d   => (0b10 : BitVec 2) ++ d
  | .txdone => 0b1100000000

/-- Is the word an RX event? -/
def isRxWord (w : EvWord) : Bool := evKind w = 2

/-! ## Two bytes carry one word (log 17) -/

/-- The event in the first two bytes, low byte first, and the bytes after it. -/
def decodeBytes : List Byte → Except DecodeError (Event × List Byte)
  | lo :: hi :: rest =>
    if hi.toNat < 4 then (decodeEvent (hi.setWidth 2 ++ lo)).map (fun ev => (ev, rest))
    else .error .containerBits
  | _ => .error .shortContainer

/-- The two bytes of an EV10 word, low byte first. -/
def encodeBytes (w : EvWord) : List Byte := [evByte w, (evKind w).setWidth 8]

/-! ## The operation an event performs (30_encoding.md R91) -/

/-- The operation of a matched marker byte (42_ingestion.md R131, R132). -/
def markerOperation (k : Fin 6) : Instr :=
  match k.val with
  | 0 => .rxM0
  | 1 => .rxM1
  | 2 => .rxM2
  | 3 => .rxM3
  | 4 => .rxM4
  | _ => .rxM5

/-- The loader's operation for the byte `d` (30_encoding.md R91; 42_ingestion.md R131 to R138). -/
def loaderOperation (m : DecodeMode) (d : Byte) : Instr :=
  match m.phase with
  | .seeking =>
    if d = Config.markerByte m.step then markerOperation m.step
    else if d = Config.markerByte 0 ∧ m.build.m0Restart = true then .rxRestart
    else .rxMiss d
  | .copying => if m.writeOffset + 1 < m.build.capacity then .rxCopy d else .rxCopyLast d

/-- The operation an event performs. An event its state gives no operation (a tick while busy, a completion while
idle, a byte while busy) is mapped to an operation whose meaning then refuses or holds it. -/
def operationOf (m : DecodeMode) : Event → Instr
  | .reset  => .reset
  | .tick   => .tick
  | .rx d   => loaderOperation m d
  | .txdone =>
    match m.tseq with
    | .wait1 => .txdoneW1
    | .wait0 => .txdoneW0
    | .idle  => .txdoneW0

/-- The condition column of spec/opcode_table.json: the states in which an operation is the one its word performs. A
sub-step runs where its owner runs, a datapath primitive has no condition. -/
def Instr.selectedIn (m : DecodeMode) : Instr → Bool
  | .reset => true
  | .tick => m.tseq = .idle
  | .txdoneW0 => m.tseq = .wait0
  | .txdoneW1 => m.tseq = .wait1
  | .rxM0 => m.tseq = .idle && m.phase = .seeking && m.step = 0
  | .rxM1 => m.tseq = .idle && m.phase = .seeking && m.step = 1
  | .rxM2 => m.tseq = .idle && m.phase = .seeking && m.step = 2
  | .rxM3 => m.tseq = .idle && m.phase = .seeking && m.step = 3
  | .rxM4 => m.tseq = .idle && m.phase = .seeking && m.step = 4
  | .rxM5 => m.tseq = .idle && m.phase = .seeking && m.step = 5
  | .rxRestart =>
    m.tseq = .idle && m.phase = .seeking && decide (1 ≤ m.step.val)
      && decide (Config.markerByte 0 ≠ Config.markerByte m.step) && m.build.m0Restart
  | .rxMiss d =>
    m.tseq = .idle && m.phase = .seeking && decide (d ≠ Config.markerByte m.step)
      && !(decide (d = Config.markerByte 0) && m.build.m0Restart)
  | .rxCopy _ => m.tseq = .idle && m.phase = .copying && decide (m.writeOffset + 1 < m.build.capacity)
  | .rxCopyLast _ => m.tseq = .idle && m.phase = .copying && decide (m.writeOffset + 1 = m.build.capacity)
  | .rFill | .rInit | .rEnable => true
  | .tAdvance | .tFetch | .tThresh | .tPack | .tTx0 => m.tseq = .idle
  | .tTx1 => m.tseq = .wait0
  | .tStbHi | .tSel | .tStbLo => m.tseq = .wait1
  | .fbRead _ | .fbWrite _ _ | .pixLo _ | .pixHi _ | .pixPack _ _ | .fbPixel _ _ | .laneGt _ _ | .select _ => true

/-! ## The words of all three formats (30_encoding.md R95) -/

/-- A word of the opcode table: an event word; the owner's word and the number of a sub-step; or the operand pattern
of a named datapath primitive, as the number it is where its width follows from the build. -/
inductive CodeWord where
  | ev10 (w : EvWord)
  | sub (w : EvWord) (k : Nat)
  | fbRead (w : Nat)
  | fbWrite (w : Nat)
  | pixLo (w : BitVec 8)
  | pixHi (w : BitVec 8)
  | pixPack (w : BitVec 8)
  | fbPixel (w : Nat)
  | laneGt (w : BitVec 8)
  | select (w : Nat)
deriving DecidableEq, Repr

/-- The sub-steps of an owner, numbered from 1 (30_encoding.md R95, the table's `substep`). -/
def subSteps : Instr → List Instr
  | .reset => [.rFill, .rInit, .rEnable]
  | .tick => [.tAdvance, .tFetch, .tThresh, .tPack, .tTx0]
  | .txdoneW0 => [.tTx1]
  | .txdoneW1 => [.tStbHi, .tSel, .tStbLo]
  | _ => []

/-- Accept an operation only with its operands in their domains. -/
def inDomain (b : Build) (i : Instr) : Except DecodeError Instr :=
  if i.wellFormed b then .ok i else .error .outOfDomain

/-- The sub-step number `k` of the operation that the event `ev` performs. -/
def decodeSub (m : DecodeMode) (k : Nat) (ev : Event) : Except DecodeError Instr :=
  match k with
  | 0 => .error (.noSubStep 0)
  | n + 1 =>
    match (subSteps (operationOf m ev))[n]? with
    | some i => .ok i
    | none => .error (.noSubStep (n + 1))

/-- The operation of a word of the opcode table, in a state; total, rejecting by name. -/
def decode (m : DecodeMode) : CodeWord → Except DecodeError Instr
  | .ev10 w => (decodeEvent w).map (operationOf m)
  | .sub w k => (decodeEvent w).bind (decodeSub m k)
  | .fbRead w => inDomain m.build (.fbRead w)
  | .fbWrite w => inDomain m.build (.fbWrite (w / 256) (BitVec.ofNat 8 w))
  | .pixLo w => inDomain m.build (.pixLo w)
  | .pixHi w => inDomain m.build (.pixHi w)
  | .pixPack w => inDomain m.build (.pixPack (w.extractLsb' 4 4) (w.extractLsb' 0 4))
  | .fbPixel w => inDomain m.build (.fbPixel (w / 16) (BitVec.ofNat 4 w))
  | .laneGt w => inDomain m.build (.laneGt (w.extractLsb' 4 4) (w.extractLsb' 0 4))
  | .select w => inDomain m.build (.select w)

/-- The word of an operation, from spec/opcode_table.json and 30_encoding.md R90, R95. -/
def encode : Instr → CodeWord
  | .reset => .ev10 0b0000000000
  | .tick => .ev10 0b0100000000
  | .txdoneW0 => .ev10 0b1100000000
  | .txdoneW1 => .ev10 0b1100000000
  | .rxM0 => .ev10 0b1011011110
  | .rxM1 => .ev10 0b1010101101
  | .rxM2 => .ev10 0b1010111110
  | .rxM3 => .ev10 0b1011101111
  | .rxM4 => .ev10 0b1000000001
  | .rxM5 => .ev10 0b1000000010
  | .rxRestart => .ev10 0b1011011110
  | .rxMiss d => .ev10 ((0b10 : BitVec 2) ++ d)
  | .rxCopy d => .ev10 ((0b10 : BitVec 2) ++ d)
  | .rxCopyLast d => .ev10 ((0b10 : BitVec 2) ++ d)
  | .rFill => .sub 0b0000000000 1
  | .rInit => .sub 0b0000000000 2
  | .rEnable => .sub 0b0000000000 3
  | .tAdvance => .sub 0b0100000000 1
  | .tFetch => .sub 0b0100000000 2
  | .tThresh => .sub 0b0100000000 3
  | .tPack => .sub 0b0100000000 4
  | .tTx0 => .sub 0b0100000000 5
  | .tTx1 => .sub 0b1100000000 1
  | .tStbHi => .sub 0b1100000000 1
  | .tSel => .sub 0b1100000000 2
  | .tStbLo => .sub 0b1100000000 3
  | .fbRead o => .fbRead o
  | .fbWrite o d => .fbWrite (o * 256 + d.toNat)
  | .pixLo b => .pixLo b
  | .pixHi b => .pixHi b
  | .pixPack hi lo => .pixPack (hi ++ lo)
  | .fbPixel r c => .fbPixel (r * 16 + c.toNat)
  | .laneGt v l => .laneGt (v ++ l)
  | .select r => .select r

/-! ## The host's table words (log 16) -/

/-- The place of a byte in the marker, 0 for a byte that is not in it. -/
def markerIndex (d : Byte) : Fin 6 :=
  if d = Config.markerByte 1 then 1
  else if d = Config.markerByte 2 then 2
  else if d = Config.markerByte 3 then 3
  else if d = Config.markerByte 4 then 4
  else if d = Config.markerByte 5 then 5
  else 0

/-- The state in which a bare event word is read when no state is given: the one in which the table row with the most
fixed bits is performed (log 16). -/
def canonicalMode : Event → DecodeMode
  | .reset  => ⟨.standard, .idle, .seeking, 0, 0⟩
  | .tick   => ⟨.standard, .idle, .seeking, 0, 0⟩
  | .txdone => ⟨.standard, .wait0, .seeking, 0, 0⟩
  | .rx d   => ⟨.standard, .idle, .seeking, markerIndex d, 0⟩

/-- The bytes of a table word of `nbits` bits, low byte first; EV10 words take two. DESIGN CHOICE: every word of 9 to 16
bits is taken for two bytes that carry an EV10 word, a bare 9-bit FB_READ or 10-bit FB_PIXEL word too; every other length
has no bytes here (log 16). -/
def tableBytes (nbits w : Nat) : List Byte :=
  if (nbits + 7) / 8 = 2 ∧ w < 65536 then [BitVec.ofNat 8 w, BitVec.ofNat 8 (w / 256)] else []

/-- The event of a table word, if its bytes carry an EV10 word that is not reserved. -/
def tableEvent (nbits w : Nat) : Option Event :=
  match decodeBytes (tableBytes nbits w) with
  | .ok (ev, _) => some ev
  | .error _ => none

/-- The operation the decoder reads from a table word, in the state the word is canonical for. It is never a datapath
primitive, since a bare word does not carry its format: DESIGN CHOICE (log 16); `decode` reads a primitive's word. -/
def decodeTableWord (nbits w : Nat) : Option Instr :=
  (tableEvent nbits w).map (fun ev => operationOf (canonicalMode ev) ev)

/-! ## Stimulus scripts (30_encoding.md R96, R97) -/

/-- The lines of a stimulus script: events and pseudo-events. R97 gives `rxs` with one byte or more and `frame` with
CAPACITY bytes; the type admits every list (log 27). -/
inductive ScriptLine where
  | reset
  | tick
  | txdone
  | rx (d : Byte)
  | tickc
  | rxs (bs : List Byte)
  | marker
  | frame (p : List Byte)
deriving DecidableEq, Repr

/-- The EV10 words of received bytes. -/
def rxWords (bs : List Byte) : List EvWord := bs.map (fun d => encodeEvent (.rx d))

/-- The EV10 words of the marker. -/
def markerWords : List EvWord := rxWords Config.marker.toList

/-- The EV10 words of one script line. DESIGN CHOICE: `frame` with a payload of another length than CAPACITY, and `rxs`
with no byte, to which R97 gives no expansion, are expanded by the same clauses without a check (log 27). -/
def lineWords : ScriptLine → List EvWord
  | .reset => [encodeEvent .reset]
  | .tick => [encodeEvent .tick]
  | .txdone => [encodeEvent .txdone]
  | .rx d => [encodeEvent (.rx d)]
  | .tickc => [encodeEvent .tick, encodeEvent .txdone, encodeEvent .txdone]
  | .rxs bs => rxWords bs
  | .marker => markerWords
  | .frame p => markerWords ++ rxWords p

/-- The EV10 words of a script; that its first event is RESET (R96) is not checked (log 27). -/
def scriptWords (ls : List ScriptLine) : List EvWord := (ls.map lineWords).flatten

/-- `n * { ... }`: the lines repeated `n` times. -/
def repeatLines (n : Nat) (ls : List ScriptLine) : List ScriptLine := (List.replicate n ls).flatten

end Sys2Proof
end

