-- ==== Sys2Proof/Machine/State.lean ====
section
/-! DEFINITION. The state of the block (10_state.md R20), as plain data, its reset value, and why a step stops. -/

namespace Sys2Proof.Machine

/-- The frame buffer's contents: the bytes that differ from the reset byte, by rising offset. -/
abbrev Memory := List Host.Cell

/-- The output events (10_state.md R33). -/
inductive OutEvent where
  /-- A byte handed to the transmit collaborator. -/
  | tx (b : Byte)
  /-- The strobe line driven high (true) or low (false). -/
  | stb (high : Bool)
  /-- The three port values written, one event (43_refresh.md R161, log 19). -/
  | sel (p : Config.Port3)
  /-- The "frame received" indicator asserted (10_state.md R34, log 20). -/
  | ind
deriving DecidableEq, Repr

/-- What a datapath primitive returns (log 12). -/
inductive FnResult where
  | byte (b : Byte)
  | pixel (v : Pixel)
  | bit (on : Bool)
  | enpat (e : Enpat)
deriving DecidableEq, Repr

/-- The model's own fields for the values that live only inside one step (10_state.md R35, log 12): the fetched row
bytes, the lane decisions, and a primitive's result. -/
structure Scratch where
  rb  : Vector Byte 8
  on  : Vector Bool 16
  ret : Option FnResult
deriving DecidableEq, Repr

/-- No transient value, as between events. -/
def Scratch.empty : Scratch :=
  { rb := #v[0, 0, 0, 0, 0, 0, 0, 0]
    on := #v[false, false, false, false, false, false, false, false,
             false, false, false, false, false, false, false, false]
    ret := none }

/-- The state of the block: the tuple of 10_state.md R20, whether RESET has completed, and the model's own fields
`build` (log 4, 8), `input` (log 1), `draws` (log 7) and `scratch` (log 12). -/
structure State where
  build       : Build
  fb          : Memory
  row         : Nat
  level       : Nat
  rowOffset   : Nat
  phase       : Phase
  step        : Fin 6
  writeOffset : Nat
  tseq        : TSeq
  ob0         : Byte
  ob1         : Byte
  strobe      : Bool
  ports       : Config.Port3
  trace       : List OutEvent
  enabled     : Bool
  input       : List EvWord
  draws       : Nat
  scratch     : Scratch
deriving DecidableEq, Repr

/-- Why the machine stops with a fault. The block itself raises none (60_exceptions.md R180): each of these marks a
state or an operand outside the ranges the spec gives, which no run reaches, and is safe (log 15). -/
inductive Fault where
  /-- A buffer access outside `[0, CAPACITY)`: FB_READ, FB_WRITE, FB_PIXEL, T.FETCH, TICK. Safe. -/
  | addressOutOfRange (o : Nat)
  /-- A row of ROWS or more: SELECT, T.SEL, TXDONE.W1. Safe. -/
  | rowOutOfRange (r : Nat)
  /-- A ramp level of 15 or more: LANE_GT, T.THRESH. Safe. -/
  | levelOutOfRange (l : Nat)
  /-- Copying with `writeOffset` at or beyond CAPACITY: any RX operation. Safe. -/
  | writeOffsetOutOfRange (w : Nat)
deriving DecidableEq, Repr

/-- Why an event or operation has no meaning. Each is safe: no claim covers a refused run. -/
inductive Refusal where
  /-- An operation without a meaning in this model; raised by no arm. Safe. -/
  | notModelled (mnemonic : String)
  /-- Any event but RESET before the first RESET (60_exceptions.md R183, 70_reset_and_hazards.md R217). Safe. -/
  | beforeReset
  /-- TICK while the previous one is unfinished (60_exceptions.md R183). Safe. -/
  | tickWhileBusy
  /-- TXDONE that nothing asked for (60_exceptions.md R183). Safe. -/
  | txdoneWhileIdle
  /-- A reserved EV10 word, raised by step (30_encoding.md R92). Safe. -/
  | reservedWord (w : EvWord)
  /-- An event operation executed by name where 30_encoding.md R91 performs another one; step never does so
  (log 14). Safe. -/
  | notSelected (mnemonic : String)
deriving DecidableEq, Repr

/-- The state of a build after the first RESET (70_reset_and_hazards.md R215): nothing listed in `fb` is every byte
0xFF; the ports hold the first free draw. -/
def State.resetOf (b : Build) : State :=
  { build := b
    fb := []
    row := 0
    level := 0
    rowOffset := 0
    phase := .seeking
    step := 0
    writeOffset := 0
    tseq := .idle
    ob0 := 0
    ob1 := 0
    strobe := false
    ports := b.freePorts 0
    trace := []
    enabled := true
    input := []
    draws := 1
    scratch := Scratch.empty }

/-- The state of this hardware after the first RESET. -/
def State.reset : State := State.resetOf Build.standard

end Sys2Proof.Machine
end

