-- ==== Sys2Proof/Machine/Ops.lean ====
section
/-! DEFINITION. The shared operations over memory, registers, the output trace and the offered events. The block takes
no exception (60_exceptions.md R180), so there is no exception entry here; entering and leaving a tick saves and
restores nothing (R188, R189). -/

namespace Sys2Proof.Machine

/-! ## Outcomes -/

/-- Run `k` on the next state; a stop stays. -/
def andThen (o : Host.Outcome State Fault Refusal) (k : State → Host.Outcome State Fault Refusal) :
    Host.Outcome State Fault Refusal :=
  match o with
  | .next s => k s
  | .fault f => .fault f
  | .refused r => .refused r

/-- Go on with a value, or stop with the fault. -/
def orFault {α : Type} (x : Except Fault α) (k : α → Host.Outcome State Fault Refusal) :
    Host.Outcome State Fault Refusal :=
  match x with
  | .ok a => k a
  | .error f => .fault f

/-! ## Memory: the frame buffer (20_memory.md) -/

/-- The byte a memory holds at an offset; an offset that is not listed holds the reset byte. -/
def Memory.byteAt : Memory → Nat → Byte
  | [], _ => Config.resetByte
  | (b, v) :: m, a => if a = b then v else Memory.byteAt m a

/-- A memory with one byte replaced; keeps the canonical form. -/
def Memory.setByte : Memory → Nat → Byte → Memory
  | [], a, v => if v = Config.resetByte then [] else [(a, v)]
  | (b, w) :: m, a, v =>
    if a < b then (if v = Config.resetByte then (b, w) :: m else (a, v) :: (b, w) :: m)
    else if a = b then (if v = Config.resetByte then m else (a, v) :: m)
    else (b, w) :: Memory.setByte m a v

/-- The canonical form in a buffer of `capacity` bytes: offsets strictly rising and inside the buffer, no entry equal
to the reset byte. -/
abbrev Memory.wf (capacity : Nat) (m : Memory) : Prop :=
  m.Pairwise (fun c d => c.1 < d.1) ∧ ∀ c ∈ m, c.1 < capacity ∧ c.2 ≠ Config.resetByte

/-- `MemRead(o, 1)` (00_scope.md R16); no meaning outside the buffer (20_memory.md R59, log 15). -/
def State.memRead (s : State) (o : Nat) : Except Fault Byte :=
  if o < s.build.capacity then .ok (s.fb.byteAt o) else .error (.addressOutOfRange o)

/-- `MemWrite(o, 1, v)` (00_scope.md R16); no meaning outside the buffer (20_memory.md R59, log 15). -/
def State.memWrite (s : State) (o : Nat) (v : Byte) : Except Fault State :=
  if o < s.build.capacity then .ok { s with fb := s.fb.setByte o v } else .error (.addressOutOfRange o)

/-- Every byte of the buffer at the reset byte, which in the canonical form lists nothing
(70_reset_and_hazards.md R211). -/
def State.fillBuffer (s : State) : State := { s with fb := [] }

/-! ## Registers and outputs -/

/-- `emit E` (00_scope.md R16). -/
def State.emit (s : State) (e : OutEvent) : State := { s with trace := s.trace ++ [e] }

/-- Drive the strobe line, and say so on the trace (43_refresh.md R160, R162). -/
def State.driveStrobe (s : State) (high : Bool) : State := { s with strobe := high }.emit (.stb high)

/-- Hand a byte to the transmit collaborator and wait in `w` (43_refresh.md R157, R172). -/
def State.transmit (s : State) (b : Byte) (w : TSeq) : State := { s with tseq := w }.emit (.tx b)

/-- Write the three ports, one output event (43_refresh.md R161). -/
def State.writePorts (s : State) (p : Config.Port3) : State := { s with ports := p }.emit (.sel p)

/-- Advance the cursor (43_refresh.md R152). -/
def State.advanceCursor (s : State) : State :=
  let level := s.level + 1
  if level ≥ Config.levels1 then
    let row := s.row + 1
    let rowOffset := s.rowOffset + Config.bytesPerRow
    if row ≥ s.build.rows then { s with level := 0, row := 0, rowOffset := 0 }
    else { s with level := 0, row := row, rowOffset := rowOffset }
  else { s with level := level }

/-- Initialise the registers, with a fresh draw of the port values (70_reset_and_hazards.md R214). -/
def State.initRegisters (s : State) : State :=
  { s with
    row := 0
    level := 0
    rowOffset := 0
    phase := .seeking
    step := 0
    writeOffset := 0
    tseq := .idle
    ob0 := 0
    ob1 := 0
    strobe := false
    ports := s.build.freePorts s.draws
    draws := s.draws + 1
    trace := [] }

/-- From here on TICK, RX and TXDONE are meaningful events (70_reset_and_hazards.md R212). -/
def State.enableEvents (s : State) : State := { s with enabled := true }

/-- The transient values end with the event (10_state.md R35, log 12). -/
def State.dropTransients (s : State) : State := { s with scratch := Scratch.empty }

/-- What a datapath primitive returned (log 12). -/
def State.giveResult (s : State) (r : FnResult) : State := { s with scratch := { s.scratch with ret := some r } }

/-- What decoding reads of the state (30_encoding.md R91). -/
def State.mode (s : State) : DecodeMode := ⟨s.build, s.tseq, s.phase, s.step, s.writeOffset⟩

/-! ## Accepting events (60_exceptions.md R183, R184) -/

/-- An event other than RESET has a meaning only after RESET. -/
def afterReset (s : State) (k : Host.Outcome State Fault Refusal) : Host.Outcome State Fault Refusal :=
  if s.enabled then k else .refused .beforeReset

/-- Accept the received byte of a loader operation: held while a tick is in progress, which changes nothing
(60_exceptions.md R184); refused where 30_encoding.md R91 performs another operation, and a fault where it performs
none because `writeOffset` is out of its range (log 14, 15). -/
def acceptRx (s : State) (i : Instr) (mnemonic : String) (k : Host.Outcome State Fault Refusal) :
    Host.Outcome State Fault Refusal :=
  afterReset s
    (if s.tseq ≠ .idle then .next s
     else if i.selectedIn s.mode then k
     else if s.phase = .copying ∧ s.build.capacity ≤ s.writeOffset then .fault (.writeOffsetOutOfRange s.writeOffset)
     else .refused (.notSelected mnemonic))

/-- Is a tick in progress, so that received bytes are held? -/
def State.holdsRx (s : State) : Bool := s.enabled && decide (s.tseq ≠ .idle)

/-- The first offered event that is not held, and the events that stay offered: while received bytes are held, the
first that is not an RX (60_exceptions.md R184, log 2). -/
def takeEvent (holding : Bool) : List EvWord → Option (EvWord × List EvWord)
  | [] => none
  | w :: ws =>
    if holding && isRxWord w then (takeEvent holding ws).map (fun p => (p.1, w :: p.2)) else some (w, ws)

/-- The event the next step takes from `input`, if any. -/
def State.nextEvent (s : State) : Option (EvWord × List EvWord) := takeEvent s.holdsRx s.input

/-- The EV10 word that stands for a table word in `input`; a table word that is no EV10 word stands as a reserved
one, which step refuses (log 16). -/
def tableEvWord (nbits w : Nat) : EvWord :=
  match tableEvent nbits w with
  | some ev => encodeEvent ev
  | none => 0b0000000001

/-- The state with the registers that decoding reads as a bare event word takes them (log 16): RESET needs none, the
other events need RESET to have completed. -/
def State.selectFor (s : State) (ev : Event) : State :=
  match ev with
  | .reset => s
  | .tick => { s with enabled := true, tseq := .idle }
  | .txdone => { s with enabled := true, tseq := .wait0 }
  | .rx d =>
    { s with enabled := true, tseq := .idle, phase := .seeking, step := markerIndex d }

end Sys2Proof.Machine
end

