-- ==== Sys2Proof/Machine/Operands.lean ====
section
/-! DEFINITION. Operand forms: the nibbles of a PIXBYTE, the two effective addresses of the block, the row-block fetch
and the pixel view (30_encoding.md R82, 40_framebuffer.md). -/

namespace Sys2Proof.Machine

/-- The first pixel of a pair, `b[3:0]` (40_framebuffer.md R112). -/
def pixLo (b : Byte) : Pixel := b.extractLsb' 0 4

/-- The second pixel of a pair, `b[7:4]` (40_framebuffer.md R113). -/
def pixHi (b : Byte) : Pixel := b.extractLsb' 4 4

/-- The PIXBYTE of two pixels, `{hi, lo}` (40_framebuffer.md R114). -/
def pixPack (hi lo : Pixel) : Byte := hi ++ lo

/-- The offset of byte `k` of row `r` (20_memory.md R52). -/
def byteAddr (r k : Nat) : Nat := r * Config.bytesPerRow + k

/-- The offset of the byte that holds pixel `(r, c)` (20_memory.md R53). -/
def pixelAddr (r c : Nat) : Nat := byteAddr r (c / 2)

/-- The nibble of the byte `b` that belongs to column `c` (20_memory.md R53). -/
def pixelOf (b : Byte) (c : Nat) : Pixel := if c % 2 = 0 then pixLo b else pixHi b

/-- `FB_PIXEL(r, c)` (40_framebuffer.md R115). -/
def State.pixel (s : State) (r c : Nat) : Except Fault Pixel :=
  (s.memRead (pixelAddr r c)).map (fun b => pixelOf b c)

/-- The pixel `(r, c)` of a memory, for points inside the grid: the view claims use. -/
def Memory.pixel (m : Memory) (r c : Nat) : Pixel := pixelOf (m.byteAt (pixelAddr r c)) c

/-- The effective address of the fetch: the base register, already advanced, plus `k` (40_framebuffer.md R117). -/
def State.fetchAddr (s : State) (k : Nat) : Nat := s.rowOffset + k

/-- The effective address of the copy (40_framebuffer.md R117). -/
def State.copyAddr (s : State) : Nat := s.writeOffset

/-- The 8 reads of T.FETCH, all of one buffer (43_refresh.md R153, 20_memory.md R62). -/
def State.readRow (s : State) : Except Fault (Vector Byte 8) := do
  let b0 ← s.memRead (s.fetchAddr 0)
  let b1 ← s.memRead (s.fetchAddr 1)
  let b2 ← s.memRead (s.fetchAddr 2)
  let b3 ← s.memRead (s.fetchAddr 3)
  let b4 ← s.memRead (s.fetchAddr 4)
  let b5 ← s.memRead (s.fetchAddr 5)
  let b6 ← s.memRead (s.fetchAddr 6)
  let b7 ← s.memRead (s.fetchAddr 7)
  return #v[b0, b1, b2, b3, b4, b5, b6, b7]

/-- The row bytes are latched (43_refresh.md R153). -/
def State.latchRow (s : State) (rb : Vector Byte 8) : State := { s with scratch := { s.scratch with rb := rb } }

end Sys2Proof.Machine
end

