-- ==== Sys2Proof/Machine/FrameBuffer.lean ====
section
/-! DEFINITION. The frame-buffer and pixel-packing primitives (40_framebuffer.md). Covers FB_READ, FB_WRITE, PIX_LO,
PIX_HI, PIX_PACK, FB_PIXEL. A primitive's result stands in `scratch.ret` (log 12). -/

namespace Sys2Proof.Machine

/-- FB_READ (40_framebuffer.md R110). -/
def execFbRead (o : Nat) (s : State) : Host.Outcome State Fault Refusal :=
  orFault (s.memRead o) (fun b => .next (s.giveResult (.byte b)))

/-- FB_WRITE (40_framebuffer.md R111). -/
def execFbWrite (o : Nat) (d : Byte) (s : State) : Host.Outcome State Fault Refusal :=
  orFault (s.memWrite o d) .next

/-- PIX_LO (40_framebuffer.md R112). -/
def execPixLo (b : Byte) (s : State) : Host.Outcome State Fault Refusal :=
  .next (s.giveResult (.pixel (pixLo b)))

/-- PIX_HI (40_framebuffer.md R113). -/
def execPixHi (b : Byte) (s : State) : Host.Outcome State Fault Refusal :=
  .next (s.giveResult (.pixel (pixHi b)))

/-- PIX_PACK (40_framebuffer.md R114). -/
def execPixPack (hi lo : Pixel) (s : State) : Host.Outcome State Fault Refusal :=
  .next (s.giveResult (.byte (pixPack hi lo)))

/-- FB_PIXEL (40_framebuffer.md R115). -/
def execFbPixel (r : Nat) (c : BitVec 4) (s : State) : Host.Outcome State Fault Refusal :=
  orFault (s.pixel r c.toNat) (fun v => .next (s.giveResult (.pixel v)))

end Sys2Proof.Machine
end

