-- ==== Sys2Proof/Machine/Ingestion.lean ====
section
/-! DEFINITION. The loader (42_ingestion.md). Covers RX.M0 to RX.M5, RX.RESTART, RX.MISS, RX.COPY, RX.COPYLAST. -/

namespace Sys2Proof.Machine

/-- The next marker byte is awaited (42_ingestion.md R131). -/
def State.stepTo (s : State) (k : Fin 6) : State := { s with step := k }

/-- The copy of a payload starts; the indicator is asserted (42_ingestion.md R132, R143). -/
def State.enterCopying (s : State) : State :=
  { s with phase := .copying, writeOffset := 0, step := 0 }.emit .ind

/-- Store a payload byte at `writeOffset`, then increment it (42_ingestion.md R134, 40_framebuffer.md R117). -/
def State.copyByte (s : State) (d : Byte) : Except Fault State :=
  (s.memWrite s.copyAddr d).map (fun t => { t with writeOffset := t.writeOffset + 1 })

/-- RX.M0 (42_ingestion.md R131). -/
def execRxM0 (s : State) : Host.Outcome State Fault Refusal :=
  acceptRx s .rxM0 "RX.M0" (.next (s.stepTo 1))

/-- RX.M1 (42_ingestion.md R131). -/
def execRxM1 (s : State) : Host.Outcome State Fault Refusal :=
  acceptRx s .rxM1 "RX.M1" (.next (s.stepTo 2))

/-- RX.M2 (42_ingestion.md R131). -/
def execRxM2 (s : State) : Host.Outcome State Fault Refusal :=
  acceptRx s .rxM2 "RX.M2" (.next (s.stepTo 3))

/-- RX.M3 (42_ingestion.md R131). -/
def execRxM3 (s : State) : Host.Outcome State Fault Refusal :=
  acceptRx s .rxM3 "RX.M3" (.next (s.stepTo 4))

/-- RX.M4 (42_ingestion.md R131). -/
def execRxM4 (s : State) : Host.Outcome State Fault Refusal :=
  acceptRx s .rxM4 "RX.M4" (.next (s.stepTo 5))

/-- RX.M5 (42_ingestion.md R132). -/
def execRxM5 (s : State) : Host.Outcome State Fault Refusal :=
  acceptRx s .rxM5 "RX.M5" (.next s.enterCopying)

/-- RX.RESTART (42_ingestion.md R133). -/
def execRxRestart (s : State) : Host.Outcome State Fault Refusal :=
  acceptRx s .rxRestart "RX.RESTART" (.next (s.stepTo 1))

/-- RX.MISS (42_ingestion.md R138). -/
def execRxMiss (d : Byte) (s : State) : Host.Outcome State Fault Refusal :=
  acceptRx s (.rxMiss d) "RX.MISS" (.next (s.stepTo 0))

/-- RX.COPY (42_ingestion.md R134). -/
def execRxCopy (d : Byte) (s : State) : Host.Outcome State Fault Refusal :=
  acceptRx s (.rxCopy d) "RX.COPY" (orFault (s.copyByte d) .next)

/-- RX.COPYLAST (42_ingestion.md R135). -/
def execRxCopyLast (d : Byte) (s : State) : Host.Outcome State Fault Refusal :=
  acceptRx s (.rxCopyLast d) "RX.COPYLAST" (orFault (s.copyByte d) (fun t => .next { t with phase := .seeking }))

end Sys2Proof.Machine
end

