-- ==== Sys2Proof/Machine/Flags.lean ====
section
/-! DEFINITION. The comparison of the block and the packing of its results. The block has no flag and no status
register (10_state.md R39): the sixteen results go into the two output bytes and nowhere else. -/

namespace Sys2Proof.Machine

/-- `LANE_GT(v, l)` with a level held as a number: unsigned, strict; true is on (43_refresh.md R156). -/
def laneGt (v : Pixel) (l : Nat) : Bool := decide (v.toNat > l)

/-- The sixteen lane decisions of a row at a level (43_refresh.md R154). -/
def laneDecisions (rb : Vector Byte 8) (l : Nat) : Vector Bool 16 :=
  #v[laneGt (pixLo rb[0]) l, laneGt (pixHi rb[0]) l, laneGt (pixLo rb[1]) l, laneGt (pixHi rb[1]) l,
     laneGt (pixLo rb[2]) l, laneGt (pixHi rb[2]) l, laneGt (pixLo rb[3]) l, laneGt (pixHi rb[3]) l,
     laneGt (pixLo rb[4]) l, laneGt (pixHi rb[4]) l, laneGt (pixLo rb[5]) l, laneGt (pixHi rb[5]) l,
     laneGt (pixLo rb[6]) l, laneGt (pixHi rb[6]) l, laneGt (pixLo rb[7]) l, laneGt (pixHi rb[7]) l]

/-- One bit, on as 1 (43_refresh.md R156; the spec's decision D9, log 18). -/
def onBit (b : Bool) : BitVec 1 := BitVec.ofBool b

/-- The first output byte, `ob0[i] = on[i]` (43_refresh.md R155). -/
def packLow (on : Vector Bool 16) : Byte :=
  onBit on[7] ++ onBit on[6] ++ onBit on[5] ++ onBit on[4] ++ onBit on[3] ++ onBit on[2] ++ onBit on[1] ++ onBit on[0]

/-- The second output byte, `ob1[i] = on[8 + i]` (43_refresh.md R155). -/
def packHigh (on : Vector Bool 16) : Byte :=
  onBit on[15] ++ onBit on[14] ++ onBit on[13] ++ onBit on[12] ++ onBit on[11] ++ onBit on[10] ++ onBit on[9]
    ++ onBit on[8]

/-- The lane decisions are latched (43_refresh.md R154). -/
def State.latchLanes (s : State) (on : Vector Bool 16) : State := { s with scratch := { s.scratch with on := on } }

/-- Pack the latched decisions into the output bytes (43_refresh.md R155). -/
def State.packLanes (s : State) : State :=
  { s with ob0 := packLow s.scratch.on, ob1 := packHigh s.scratch.on }

end Sys2Proof.Machine
end

