-- ==== Sys2Proof/Machine/RowSelect.lean ====
section
/-! DEFINITION. The row-address selector and the port encoding (41_row_select.md). Covers SELECT. -/

namespace Sys2Proof.Machine

/-- `bank_of(row)` for the bounds `n1`, `n2` (41_row_select.md R121). -/
def bankOf (n1 n2 row : Nat) : Fin 3 := if row < n1 then 0 else if row < n2 then 1 else 2

/-- `base(bank)` for the bounds `n1`, `n2` (41_row_select.md R121). -/
def bankBase (n1 n2 : Nat) (k : Fin 3) : Nat := if k = 0 then 0 else if k = 1 then n1 else n2

/-- `SELECT(row)` for given bounds and shift (41_row_select.md R120, R122). -/
def selectWith (n1 n2 shift row : Nat) : Enpat :=
  { bank := bankOf n1 n2 row
    sel := (row - bankBase n1 n2 (bankOf n1 n2 row)) <<< shift }

/-- `SELECT(row)` of a build, whose bounds and shift are open parameters (log 5). -/
def selectRow (b : Build) (row : Nat) : Enpat := selectWith b.bankN1 b.bankN2 Config.selShift row

/-- The enable lines `en_n[2:0]`, active low: all high but the active bank's (30_encoding.md R88). -/
def enableLines (e : Enpat) : BitVec 3 := ~~~ ((1 : BitVec 3) <<< e.bank.val)

/-- The row an enable pattern stands for, in the banks of a build. -/
def rowOfPattern (b : Build) (e : Enpat) : Nat := bankBase b.bankN1 b.bankN2 e.bank + e.sel >>> Config.selShift

/-- The row in three digits of `w` bits. -/
def rowDigits (w row : Nat) : Config.PortBits w :=
  (BitVec.ofNat w row, BitVec.ofNat w (row / 2 ^ w), BitVec.ofNat w (row / 2 ^ w / 2 ^ w))

/-- `PORT_ENCODE`, an arbitrary injective map of the enable patterns: the pattern's row, written as one triple, sent
through an uninterpreted rearrangement of all triples. Any injective encoding of a build's patterns has this form
(41_row_select.md R124, log 6). -/
def portEncode (b : Build) (e : Enpat) : Config.Port3 :=
  Config.portValues (Config.portPerm b.portW (rowDigits b.portW (rowOfPattern b e)))

/-- One port of the spec's reference encoding, for its test vectors only (41_row_select.md R124). -/
def referencePort (e : Enpat) (j : Fin 3) : BitVec 8 :=
  (0b000 : BitVec 3) ++ BitVec.ofBool ((enableLines e).getLsbD j.val)
    ++ (if j = e.bank then BitVec.ofNat 4 e.sel else (0 : BitVec 4))

/-- SELECT: the pattern of a row inside the grid; state is unchanged but for the returned value (41_row_select.md
R120). A row of ROWS or more is outside its domain (log 15). -/
def execSelect (r : Nat) (s : State) : Host.Outcome State Fault Refusal :=
  if r < s.build.rows then .next (s.giveResult (.enpat (selectRow s.build r))) else .fault (.rowOutOfRange r)

end Sys2Proof.Machine
end

