-- ==== Sys2Proof/Machine/Refresh.lean ====
section
/-! DEFINITION. The refresh sequencer (43_refresh.md). Covers TICK, TXDONE.W0, TXDONE.W1, their sub-steps and LANE_GT.
A sub-step executed by name has its pseudocode as effect in any state; when it runs is its owner's affair (log 13). -/

namespace Sys2Proof.Machine

/-- Latch the row-block of the cursor (43_refresh.md R153). -/
def fetchRow (s : State) : Host.Outcome State Fault Refusal :=
  orFault s.readRow (fun rb => .next (s.latchRow rb))

/-- Compare the latched row with the ramp level (43_refresh.md R154); no level of 15 or more is ever a threshold
(10_state.md R22, log 15). -/
def thresholdRow (s : State) : Host.Outcome State Fault Refusal :=
  if s.level < Config.levels1 then .next (s.latchLanes (laneDecisions s.scratch.rb s.level))
  else .fault (.levelOutOfRange s.level)

/-- Write the row's enable pattern to the three ports (43_refresh.md R161); no row of ROWS or more is ever selected
(41_row_select.md R120, log 15). -/
def selectPorts (s : State) : Host.Outcome State Fault Refusal :=
  if s.row < s.build.rows then .next (s.writePorts (portEncode s.build (selectRow s.build s.row)))
  else .fault (.rowOutOfRange s.row)

/-- T.ADVANCE (43_refresh.md R152). -/
def execTAdvance (s : State) : Host.Outcome State Fault Refusal := .next s.advanceCursor

/-- T.FETCH (43_refresh.md R153). -/
def execTFetch (s : State) : Host.Outcome State Fault Refusal := fetchRow s

/-- T.THRESH (43_refresh.md R154). -/
def execTThresh (s : State) : Host.Outcome State Fault Refusal := thresholdRow s

/-- T.PACK (43_refresh.md R155). -/
def execTPack (s : State) : Host.Outcome State Fault Refusal := .next s.packLanes

/-- T.TX0 (43_refresh.md R157). -/
def execTTx0 (s : State) : Host.Outcome State Fault Refusal := .next (s.transmit s.ob0 .wait0)

/-- T.TX1 (43_refresh.md R172). -/
def execTTx1 (s : State) : Host.Outcome State Fault Refusal := .next (s.transmit s.ob1 .wait1)

/-- T.STBHI (43_refresh.md R160). -/
def execTStbHi (s : State) : Host.Outcome State Fault Refusal := .next (s.driveStrobe true)

/-- T.SEL (43_refresh.md R161). -/
def execTSel (s : State) : Host.Outcome State Fault Refusal := selectPorts s

/-- T.STBLO (43_refresh.md R162). -/
def execTStbLo (s : State) : Host.Outcome State Fault Refusal := .next (s.driveStrobe false)

/-- TICK: its five sub-steps in order, as one step; refused while a tick is in progress (43_refresh.md R150,
60_exceptions.md R183). The transients end with it (10_state.md R35). -/
def execTick (s : State) : Host.Outcome State Fault Refusal :=
  afterReset s
    (if s.tseq ≠ .idle then .refused .tickWhileBusy
     else
      andThen (fetchRow s.advanceCursor) fun s₂ =>
      andThen (thresholdRow s₂) fun s₃ =>
      .next ((s₃.packLanes.transmit s₃.packLanes.ob0 .wait0).dropTransients))

/-- TXDONE.W0: its sub-step; a completion nothing asked for is refused (43_refresh.md R158, 60_exceptions.md R183). -/
def execTxdoneW0 (s : State) : Host.Outcome State Fault Refusal :=
  afterReset s
    (match s.tseq with
     | .idle => .refused .txdoneWhileIdle
     | .wait0 => .next (s.transmit s.ob1 .wait1)
     | .wait1 => .refused (.notSelected "TXDONE.W0"))

/-- TXDONE.W1: its three sub-steps in order, then the tick has ended (43_refresh.md R159). -/
def execTxdoneW1 (s : State) : Host.Outcome State Fault Refusal :=
  afterReset s
    (match s.tseq with
     | .idle => .refused .txdoneWhileIdle
     | .wait0 => .refused (.notSelected "TXDONE.W1")
     | .wait1 =>
       andThen (selectPorts (s.driveStrobe true)) fun s₂ =>
       .next { s₂.driveStrobe false with tseq := .idle })

/-- LANE_GT (43_refresh.md R156); the level 15 never occurs (log 15). -/
def execLaneGt (v l : BitVec 4) (s : State) : Host.Outcome State Fault Refusal :=
  if l.toNat < Config.levels1 then .next (s.giveResult (.bit (laneGt v l.toNat)))
  else .fault (.levelOutOfRange l.toNat)

end Sys2Proof.Machine
end

