-- ==== Sys2Proof/Machine/Startup.lean ====
section
/-! DEFINITION. Reset and its sub-steps (70_reset_and_hazards.md section 1). Covers RESET, R.FILL, R.INIT, R.ENABLE. -/

namespace Sys2Proof.Machine

/-- R.FILL (70_reset_and_hazards.md R211). -/
def execRFill (s : State) : Host.Outcome State Fault Refusal := .next s.fillBuffer

/-- R.INIT (70_reset_and_hazards.md R214). -/
def execRInit (s : State) : Host.Outcome State Fault Refusal := .next s.initRegisters

/-- R.ENABLE (70_reset_and_hazards.md R212). -/
def execREnable (s : State) : Host.Outcome State Fault Refusal := .next s.enableEvents

/-- RESET: its three sub-steps in order, as one step, in any state (70_reset_and_hazards.md R210, R216). What the
environment still offers stays offered (log 21). -/
def execReset (s : State) : Host.Outcome State Fault Refusal :=
  .next s.fillBuffer.initRegisters.enableEvents.dropTransients

end Sys2Proof.Machine
end

