-- ==== Sys2Proof/Machine/Dispatch.lean ====
section
/-! DEFINITION. Which meaning each operation has: one arm per constructor of Instr. -/

namespace Sys2Proof.Machine

def exec (i : Instr) (s : State) : Host.Outcome State Fault Refusal :=
  match i with
  | .reset => Sys2Proof.Machine.execReset s
  | .tick => Sys2Proof.Machine.execTick s
  | .txdoneW0 => Sys2Proof.Machine.execTxdoneW0 s
  | .txdoneW1 => Sys2Proof.Machine.execTxdoneW1 s
  | .rxM0 => Sys2Proof.Machine.execRxM0 s
  | .rxM1 => Sys2Proof.Machine.execRxM1 s
  | .rxM2 => Sys2Proof.Machine.execRxM2 s
  | .rxM3 => Sys2Proof.Machine.execRxM3 s
  | .rxM4 => Sys2Proof.Machine.execRxM4 s
  | .rxM5 => Sys2Proof.Machine.execRxM5 s
  | .rxRestart => Sys2Proof.Machine.execRxRestart s
  | .rxMiss d => Sys2Proof.Machine.execRxMiss d s
  | .rxCopy d => Sys2Proof.Machine.execRxCopy d s
  | .rxCopyLast d => Sys2Proof.Machine.execRxCopyLast d s
  | .rFill => Sys2Proof.Machine.execRFill s
  | .rInit => Sys2Proof.Machine.execRInit s
  | .rEnable => Sys2Proof.Machine.execREnable s
  | .tAdvance => Sys2Proof.Machine.execTAdvance s
  | .tFetch => Sys2Proof.Machine.execTFetch s
  | .tThresh => Sys2Proof.Machine.execTThresh s
  | .tPack => Sys2Proof.Machine.execTPack s
  | .tTx0 => Sys2Proof.Machine.execTTx0 s
  | .tTx1 => Sys2Proof.Machine.execTTx1 s
  | .tStbHi => Sys2Proof.Machine.execTStbHi s
  | .tSel => Sys2Proof.Machine.execTSel s
  | .tStbLo => Sys2Proof.Machine.execTStbLo s
  | .fbRead o => Sys2Proof.Machine.execFbRead o s
  | .fbWrite o d => Sys2Proof.Machine.execFbWrite o d s
  | .pixLo b => Sys2Proof.Machine.execPixLo b s
  | .pixHi b => Sys2Proof.Machine.execPixHi b s
  | .pixPack hi lo => Sys2Proof.Machine.execPixPack hi lo s
  | .fbPixel r c => Sys2Proof.Machine.execFbPixel r c s
  | .laneGt v l => Sys2Proof.Machine.execLaneGt v l s
  | .select r => Sys2Proof.Machine.execSelect r s

end Sys2Proof.Machine
end

