-- ==== Sys2Proof/Machine/Step.lean ====
section
/-! DEFINITION. One step: take the next event that is offered and not held, and perform the operation that the state
gives it (20_memory.md R60, 30_encoding.md R91). -/

namespace Sys2Proof.Machine

/-- One step. With nothing offered, or only held bytes, nothing happens (70_reset_and_hazards.md R227, log 3). -/
def step (s : State) : Host.Outcome State Fault Refusal :=
  match s.nextEvent with
  | none => .next s
  | some (w, rest) =>
    match decode s.mode (.ev10 w) with
    | .ok i => exec i { s with input := rest }
    | .error _ => .refused (.reservedWord w)

/-- The state whose very next step performs the operation that `decodeTableWord nbits w` names: the word is offered
first, and the registers that choose its operation are set (log 16). -/
def State.withFetchWord (s : State) (nbits w : Nat) : State :=
  let t := match tableEvent nbits w with
    | some ev => s.selectFor ev
    | none => s
  { t with input := tableEvWord nbits w :: s.input }

end Sys2Proof.Machine
end

