-- ==== Sys2Proof/Safety.lean ====
section
/-! DEFINITION. What a good state and a good run are, in the terms claims use: the invariants of 10_state.md R44, runs
as lists of accepted events (20_memory.md R60), and the observations of a run (10_state.md R33). -/

namespace Sys2Proof.Machine

/-! ## Observations -/

/-- How many bytes a trace hands to the transmit collaborator. -/
def countTx (tr : List OutEvent) : Nat :=
  tr.countP (fun e => match e with | .tx _ => true | _ => false)

/-- How many times a trace drives the strobe to the given level. -/
def countStb (high : Bool) (tr : List OutEvent) : Nat :=
  tr.countP (fun e => match e with | .stb h => h == high | _ => false)

/-- How many times a trace writes the ports. -/
def countSel (tr : List OutEvent) : Nat :=
  tr.countP (fun e => match e with | .sel _ => true | _ => false)

/-- How many times a trace asserts the indicator. -/
def countInd (tr : List OutEvent) : Nat :=
  tr.countP (fun e => match e with | .ind => true | _ => false)

/-- The TX events of the tick in progress (10_state.md R44, I8). -/
def pendingTx : TSeq → Nat
  | .idle => 0
  | .wait0 => 1
  | .wait1 => 2

/-- The sub-frame record of a completed tick (43_refresh.md R164). -/
structure SubFrame where
  row     : Nat
  level   : Nat
  ob0     : Byte
  ob1     : Byte
  pattern : Enpat
deriving DecidableEq, Repr

/-- The sub-frame record of the last completed tick. -/
def State.subFrame (s : State) : SubFrame := ⟨s.row, s.level, s.ob0, s.ob1, selectRow s.build s.row⟩

/-- Is column `c` driven by the two output bytes (30_encoding.md R86)? -/
def outputBit (ob0 ob1 : Byte) (c : Nat) : Bool := if c < 8 then ob0.getLsbD c else ob1.getLsbD (c - 8)

/-- The number of a cursor position in the refresh cycle (43_refresh.md R166). -/
def State.cursorNumber (s : State) : Nat := s.row * Config.levels1 + s.level

/-! ## The invariant (10_state.md R44) -/

/-- Three values of `w` bits (30_encoding.md R89). -/
def portsFit (w : Nat) (p : Config.Port3) : Prop := p.p0 < 2 ^ w ∧ p.p1 < 2 ^ w ∧ p.p2 < 2 ^ w

/-- I1 to I8 of 10_state.md R44, with a build the spec admits, RESET completed, the ports within their width, the memory
canonical and no transient value left. I7 and the bound of `step` in I4 hold by the types. -/
structure Inv (s : State) : Prop where
  build     : s.build.legal
  enabled   : s.enabled = true
  row       : s.row < s.build.rows
  level     : s.level < Config.levels1
  rowOffset : s.rowOffset = s.row * Config.bytesPerRow
  step      : s.phase = .copying → s.step = 0
  offset    : s.writeOffset ≤ s.build.capacity
  copying   : s.phase = .copying → s.writeOffset < s.build.capacity
  strobe    : s.strobe = false
  countTx   : countTx s.trace = 2 * countStb true s.trace + pendingTx s.tseq
  countSel  : countSel s.trace = countStb true s.trace
  countLow  : countStb false s.trace = countStb true s.trace
  memory    : Memory.wf s.build.capacity s.fb
  ports     : portsFit s.build.portW s.ports
  scratch   : s.scratch = Scratch.empty

/-! ## Runs (20_memory.md R60) -/

/-- The events the environment may present in a state and the block accepts (60_exceptions.md R197): RESET always,
and after RESET a TICK or an RX when idle, a TXDONE when one is awaited. -/
def State.admits (s : State) : Event → Bool
  | .reset => true
  | .tick => s.enabled && decide (s.tseq = .idle)
  | .rx _ => s.enabled && decide (s.tseq = .idle)
  | .txdone => s.enabled && decide (s.tseq ≠ .idle)

/-- The state after one accepted event; none where the event is refused or held. -/
def acceptEvent (s : State) (e : Event) : Option State :=
  if s.admits e then
    match exec (operationOf s.mode e) s with
    | .next t => some t
    | .fault _ => none
    | .refused _ => none
  else none

/-- The state after a list of accepted events. -/
def acceptAll (s : State) : List Event → Option State
  | [] => some s
  | e :: es => (acceptEvent s e).bind (fun t => acceptAll t es)

/-- The buffer offsets that a run of accepted events stores a payload byte to, in order (42_ingestion.md R134, R135). -/
def storedOffsets (s : State) : List Event → List Nat
  | [] => []
  | e :: es =>
    match acceptEvent s e with
    | none => []
    | some t => (match e, s.phase with
        | .rx _, .copying => [s.writeOffset]
        | _, _ => []) ++ storedOffsets t es

/-- A completed tick (43_refresh.md R163). -/
def completedTick (s : State) : Option State := acceptAll s [.tick, .txdone, .txdone]

/-- `n` completed ticks, one after the other. -/
def completedTicks : Nat → State → Option State
  | 0, s => some s
  | n + 1, s => (completedTick s).bind (completedTicks n)

/-- The bytes a list of events delivers. -/
def receivedBytes (es : List Event) : List Byte :=
  es.filterMap (fun e => match e with | .rx d => some d | _ => none)

/-- How many ticks a list of events holds. -/
def tickCount (es : List Event) : Nat := es.countP (fun e => decide (e = .tick))

end Sys2Proof.Machine
end

