-- ==== Sys2Proof/Certificates/Slice0/Obligations.lean ====
section
/-! DEFINITION. The statements for the provers. Each docstring says which rule of the spec it formalises; "derived"
says that it rests on a decision or a consequence the spec marks as its own, or on a log entry of the model. -/

open Sys2Proof Sys2Proof.Machine

/-! ## Encoding -/

/-- 30_encoding.md section 5 and 6: some words, each with the operation it stands for (derived: EV10 is the spec's own,
decision D23). -/
def Obligations.SampleWordsDecode : Prop :=
  decodeEvent 0b0000000000 = .ok .reset ∧
  decodeEvent 0b0100000000 = .ok .tick ∧
  decodeEvent 0b1011011110 = .ok (.rx 0xDE) ∧
  decodeEvent 0b1100000000 = .ok .txdone ∧
  decode ⟨.standard, .wait1, .seeking, 0, 0⟩ (.ev10 0b1100000000) = .ok .txdoneW1 ∧
  decode ⟨.standard, .idle, .seeking, 0, 0⟩ (.ev10 0b1011011110) = .ok .rxM0 ∧
  decode ⟨.standard, .idle, .seeking, 3, 0⟩ (.ev10 0b1011011110) = .ok .rxRestart ∧
  decode ⟨.standard, .idle, .seeking, 3, 0⟩ (.ev10 0b1011101110) = .ok (.rxMiss 0xEE) ∧
  decode ⟨.standard, .idle, .copying, 0, 382⟩ (.ev10 0b1010100011) = .ok (.rxCopy 0xA3) ∧
  decode ⟨.standard, .idle, .copying, 0, 383⟩ (.ev10 0b1010100011) = .ok (.rxCopyLast 0xA3) ∧
  decode ⟨.standard, .idle, .seeking, 0, 0⟩ (.sub 0b0000000000 3) = .ok .rEnable ∧
  decode ⟨.standard, .idle, .seeking, 0, 0⟩ (.sub 0b0100000000 5) = .ok .tTx0 ∧
  decode ⟨.standard, .wait1, .seeking, 0, 0⟩ (.sub 0b1100000000 2) = .ok .tSel ∧
  decode ⟨.standard, .idle, .seeking, 0, 0⟩ (.fbWrite 0b00000100110100011) = .ok (.fbWrite 9 0xA3) ∧
  decode ⟨.standard, .idle, .seeking, 0, 0⟩ (.fbPixel 0b0000010010) = .ok (.fbPixel 1 2) ∧
  decode ⟨.standard, .idle, .seeking, 0, 0⟩ (.laneGt 0b00110010) = .ok (.laneGt 3 2) ∧
  decode ⟨.standard, .idle, .seeking, 0, 0⟩ (.select 0b010001) = .ok (.select 17)

/-- 30_encoding.md R90, R92: a word names an event exactly if it is that event's word, and it is rejected, by name,
exactly if it is not an RX word and its low byte is not 0 (derived: decision D23). -/
def Obligations.EventWordsRoundTrip : Prop :=
  (∀ (w : EvWord) (e : Event), decodeEvent w = .ok e ↔ encodeEvent e = w) ∧
  (∀ w : EvWord, decodeEvent w = .error (.reservedWord w) ↔ evKind w ≠ 2 ∧ evByte w ≠ 0)

/-- Every well-formed operation, with every operand value its word admits, is read back from its word in every state
that selects it (derived: decision D23). -/
def Obligations.DecodeEncodeAgree : Prop :=
  ∀ (m : DecodeMode) (i : Instr), i.wellFormed m.build = true → i.selectedIn m = true → decode m (encode i) = .ok i

/-- 30_encoding.md R91: in a state that gives an event an operation, the event performs exactly one: the chosen one is
selected, its word is the event's, and no other operation with that word is selected (derived: decision D23). -/
def Obligations.EachEventPerformsOneOperation : Prop :=
  ∀ (m : DecodeMode) (e : Event),
    (m.phase = .copying → m.writeOffset < m.build.capacity) →
    ((e = .tick ∨ ∃ d, e = .rx d) → m.tseq = .idle) →
    (e = .txdone → m.tseq ≠ .idle) →
    (operationOf m e).selectedIn m = true ∧
    encode (operationOf m e) = .ev10 (encodeEvent e) ∧
    ∀ j : Instr, encode j = .ev10 (encodeEvent e) → j.selectedIn m = true → j = operationOf m e

/-! ## The step -/

/-- A step takes the first offered word, if it is not held, and is exec of the decoded operation at the state with
that word taken out of `input` (derived: the list of offered words is the model's own field, log 1). -/
def Obligations.StepRunsTheDecodedOperation : Prop :=
  ∀ (s : State) (w : EvWord) (rest : List EvWord) (i : Instr),
    s.input = w :: rest → (s.holdsRx && isRxWord w) = false → decode s.mode (.ev10 w) = .ok i →
    step s = exec i { s with input := rest }

/-- 60_exceptions.md R184, 70_reset_and_hazards.md R227: while a tick is in progress the received bytes wait, in their
order, and the first other event is taken; with only received bytes offered, or nothing at all, a step changes nothing
(derived: decisions D20, D21, log 2, 3). -/
def Obligations.HeldBytesLetTheCompletionPass : Prop :=
  (∀ (s : State) (ds : List Byte) (w : EvWord) (rest : List EvWord) (i : Instr),
    s.holdsRx = true → s.input = rxWords ds ++ w :: rest → isRxWord w = false → decode s.mode (.ev10 w) = .ok i →
    step s = exec i { s with input := rxWords ds ++ rest }) ∧
  (∀ (s : State) (ds : List Byte), s.holdsRx = true → s.input = rxWords ds → step s = .next s) ∧
  (∀ s : State, s.input = [] → step s = .next s)

/-- 60_exceptions.md R183, 70_reset_and_hazards.md R217 and 30_encoding.md R92: a TICK while a tick is unfinished, a
TXDONE nothing asked for, every event but RESET before the first RESET, and a reserved word are refused, each under its
own name (derived: decisions D18, D19, D20, D23, log 11). -/
def Obligations.EventsWithoutMeaningAreRefused : Prop :=
  (∀ s : State, s.enabled = true → s.tseq ≠ .idle → exec .tick s = .refused .tickWhileBusy) ∧
  (∀ s : State, s.enabled = true → s.tseq = .idle →
    exec (operationOf s.mode .txdone) s = .refused .txdoneWhileIdle) ∧
  (∀ (s : State) (e : Event), s.enabled = false → e ≠ .reset →
    exec (operationOf s.mode e) s = .refused .beforeReset) ∧
  (∀ (s : State) (w : EvWord) (rest : List EvWord), s.input = w :: rest → evKind w ≠ 2 → evByte w ≠ 0 →
    step s = .refused (.reservedWord w))

/-- 42_ingestion.md R130, 60_exceptions.md R184: every loader operation, offered while a tick is in progress, is held
and changes nothing (derived: decision D21). -/
def Obligations.HeldByteChangesNothing : Prop :=
  ∀ (s : State) (d : Byte), s.enabled = true → s.tseq ≠ .idle →
    ∀ i ∈ [Instr.rxM0, .rxM1, .rxM2, .rxM3, .rxM4, .rxM5, .rxRestart, .rxMiss d, .rxCopy d, .rxCopyLast d],
      exec i s = .next s

/-! ## The invariant -/

/-- The state after RESET is good, for this hardware and for every build the spec admits (derived from 10_state.md R44;
the reset values the spec chose are log 10, the build of this hardware log 4 and 8). -/
def Obligations.ResetStateIsGood : Prop :=
  Inv State.reset ∧ State.reset.build.rows = 48 ∧ State.reset.build.capacity = 384 ∧
    State.reset.build.cycleTicks = 720 ∧ State.reset.build.m0Restart = true ∧
    ∀ b : Build, b.legal → Inv (State.resetOf b)

/-- 10_state.md R44: I1 to I8, the canonical memory and the end of the transients hold after every step of a good
state (derived in the spec). -/
def Obligations.StepKeepsInvariant : Prop :=
  ∀ s t : State, Inv s → step s = .next t → Inv t

/-- 60_exceptions.md R180, 20_memory.md R59: no step of a good state faults (derived: the faults are the model's, log
15). -/
def Obligations.NoFaultFromAGoodState : Prop :=
  ∀ (s : State) (f : Fault), Inv s → step s ≠ .fault f

/-- 60_exceptions.md R183: a step of a good state is refused only for a tick that came too early, a completion nothing
asked for, or a reserved word (derived: decisions D19, D20, D23). -/
def Obligations.OnlyTheseRefusals : Prop :=
  ∀ (s : State) (r : Refusal), Inv s → step s = .refused r →
    (r = .tickWhileBusy ∧ s.tseq ≠ .idle ∧ encodeEvent .tick ∈ s.input) ∨
    (r = .txdoneWhileIdle ∧ s.tseq = .idle ∧ encodeEvent .txdone ∈ s.input) ∨
    (∃ w ∈ s.input, r = .reservedWord w ∧ evKind w ≠ 2 ∧ evByte w ≠ 0)

/-- 60_exceptions.md R197: an environment that keeps its duties is always served: in a good state every event the
contract allows is accepted and leads to a good state (derived: decisions D19 to D21). -/
def Obligations.ContractedEventsAreAccepted : Prop :=
  ∀ (s : State) (e : Event), Inv s → s.admits e = true → ∃ t, acceptEvent s e = some t ∧ Inv t

/-- No operation breaks the canonical form of the memory or changes the parameters of the build (derived: the form is
the model's, log 22; so is the field `build`, log 4). -/
def Obligations.EveryOperationKeepsMemoryCanonical : Prop :=
  ∀ (i : Instr) (s t : State), exec i s = .next t →
    t.build = s.build ∧ (Memory.wf s.build.capacity s.fb → Memory.wf t.build.capacity t.fb)

/-! ## Reset -/

/-- 70_reset_and_hazards.md R210, R214, R215, R216: RESET is its three sub-steps in order, in one step; what it leaves,
from any state, the unspecified one before the first RESET included; and that is a good state. The values of
`writeOffset`, `tseq`, `ob0`, `ob1`, `strobe` are the spec's own decisions (log 10), the ports are a free draw (log 7),
the offered events stay (log 21): derived. -/
def Obligations.ResetLeavesTheResetState : Prop :=
  ∀ s : State, s.build.legal → ∃ a b c t, exec .rFill s = .next a ∧ exec .rInit a = .next b ∧ exec .rEnable b = .next c ∧
    t = { c with scratch := Scratch.empty } ∧ exec .reset s = .next t ∧ Inv t ∧
    (∀ o < s.build.capacity, t.fb.byteAt o = 0xFF) ∧
    t.row = 0 ∧ t.level = 0 ∧ t.rowOffset = 0 ∧
    t.phase = .seeking ∧ t.step = 0 ∧ t.writeOffset = 0 ∧
    t.tseq = .idle ∧ t.ob0 = 0 ∧ t.ob1 = 0 ∧ t.strobe = false ∧
    t.ports = s.build.freePorts s.draws ∧ t.draws = s.draws + 1 ∧
    t.trace = [] ∧ t.enabled = true ∧ t.input = s.input ∧ t.build = s.build

/-- 70_reset_and_hazards.md R211 (stated): sub-step 1 of RESET; the fill writes 0xFF, two pixels of the top value, to every byte of the
buffer and changes nothing else; it is the writes of its loop, in any canonical memory. -/
def Obligations.FillLightsEveryPixel : Prop :=
  encode .rFill = .sub 0b0000000000 1 ∧
  (∀ s : State, ∃ t, exec .rFill s = .next t ∧
    (∀ o < s.build.capacity, t.fb.byteAt o = 0xFF) ∧
    (0xFF : Byte) = pixPack 15 15 ∧
    t = { s with fb := t.fb } ∧
    (Memory.wf s.build.capacity s.fb → t.fb = (List.range s.build.capacity).foldl (fun m o => Memory.setByte m o 0xFF) s.fb))

/-- 70_reset_and_hazards.md R214: the register values R.INIT writes; buffer, `enabled`, `input` and transients stay
(derived: decisions D15, D16, D24, D30; the ports are a free draw, log 7). -/
def Obligations.InitWritesTheRegisters : Prop :=
  ∀ s : State, exec .rInit s = .next
    { s with row := 0, level := 0, rowOffset := 0, phase := .seeking, step := 0, writeOffset := 0, tseq := .idle,
             ob0 := 0, ob1 := 0, strobe := false, ports := s.build.freePorts s.draws, draws := s.draws + 1, trace := [] }

/-- 70_reset_and_hazards.md R212: sub-step 3 of RESET; R.ENABLE sets the flag `enabled` and changes nothing else; with
the flag clear TICK, RX and TXDONE are refused; after RESET the first tick is served, every byte is accepted, and each
of the two completions of a tick is accepted when it is due; and no operation ever clears the flag (derived: the flag is
the model's own, log 11; the refusal before RESET is the decision D18). -/
def Obligations.EventsAreEnabledForEver : Prop :=
  encode .rEnable = .sub 0b0000000000 3 ∧
  (∀ s : State, exec .rEnable s = .next { s with enabled := true }) ∧
  (∀ s : State, s.enabled = false → exec .tick s = .refused .beforeReset ∧
    exec (operationOf s.mode .txdone) s = .refused .beforeReset ∧
    ∀ d, exec (operationOf s.mode (.rx d)) s = .refused .beforeReset) ∧
  (∀ s t : State, s.build.legal → exec .reset s = .next t →
    (∀ d, ∃ u, acceptEvent t (.rx d) = some u) ∧
    ∃ u v w, exec .tick t = .next u ∧ acceptEvent t .tick = some u ∧ acceptEvent u .txdone = some v ∧
      acceptEvent v .txdone = some w) ∧
  (∀ (i : Instr) (s t : State), s.enabled = true → exec i s = .next t → t.enabled = true)

/-! ## Frame buffer and pixel packing -/

/-- 40_framebuffer.md R110 (stated): FB_READ returns the byte at its offset, in both operand forms, and changes
nothing else; after RESET it returns 0xFF; after a write it returns the new byte, before it the old one. -/
def Obligations.FbReadReturnsTheByte : Prop :=
  (∀ o : Nat, encode (.fbRead o) = .fbRead o) ∧
  (∀ (s : State) (o : Nat), o < s.build.capacity →
    exec (.fbRead o) s = .next { s with scratch := { s.scratch with ret := some (.byte (s.fb.byteAt o)) } }) ∧
  (∀ (s : State) (r k : Nat), r < s.build.rows → k < 8 →
    exec (.fbRead (r * 8 + k)) s
      = .next { s with scratch := { s.scratch with ret := some (.byte (s.fb.byteAt (r * 8 + k))) } }) ∧
  (∀ (s t : State) (o : Nat) (d : Byte), Memory.wf s.build.capacity s.fb → exec (.fbWrite o d) s = .next t →
    exec (.fbRead o) t = .next { t with scratch := { t.scratch with ret := some (.byte d) } }) ∧
  (∀ s t : State, s.build.legal → exec .reset s = .next t →
    exec (.fbRead 0) t = .next { t with scratch := { t.scratch with ret := some (.byte 0xFF) } })

/-- 40_framebuffer.md R111 (stated): FB_WRITE replaces the byte at its offset, both pixels at once, and changes
nothing else; writing the byte already there changes nothing; its example. -/
def Obligations.FbWriteReplacesOneByte : Prop :=
  (∀ (o : Nat) (d : Byte), encode (.fbWrite o d) = .fbWrite (o * 2 ^ 8 + d.toNat)) ∧
  (∀ (s : State) (o : Nat) (d : Byte), Memory.wf s.build.capacity s.fb → o < s.build.capacity →
    ∃ t, exec (.fbWrite o d) s = .next t ∧ t.fb.byteAt o = d ∧
      (∀ a, a ≠ o → t.fb.byteAt a = s.fb.byteAt a) ∧ t = { s with fb := t.fb }) ∧
  (∀ (s : State) (o : Nat), Memory.wf s.build.capacity s.fb → o < s.build.capacity →
    exec (.fbWrite o (s.fb.byteAt o)) s = .next s) ∧
  (∀ s t : State, Memory.wf s.build.capacity s.fb → exec (.fbWrite 0 0x0F) s = .next t →
    t.fb.pixel 0 0 = 15 ∧ t.fb.pixel 0 1 = 0)

/-- 40_framebuffer.md R112, R113 (stated): PIX_LO returns the low nibble and PIX_HI the high nibble on its own 0 to 15
scale, on all 256 bytes, and each changes nothing else; their example. -/
def Obligations.UnpackingReturnsTheNibbles : Prop :=
  (∀ b : Byte, encode (.pixLo b) = .pixLo b ∧ encode (.pixHi b) = .pixHi b) ∧
  (∀ (s : State) (b : Byte), ∃ v : Pixel, v.toNat = b.toNat % 16 ∧
    exec (.pixLo b) s = .next { s with scratch := { s.scratch with ret := some (.pixel v) } }) ∧
  (∀ (s : State) (b : Byte), ∃ v : Pixel, v.toNat = b.toNat / 16 ∧
    exec (.pixHi b) s = .next { s with scratch := { s.scratch with ret := some (.pixel v) } }) ∧
  (∀ s : State, exec (.pixLo 0xA3) s = .next { s with scratch := { s.scratch with ret := some (.pixel 3) } } ∧
    exec (.pixHi 0xA3) s = .next { s with scratch := { s.scratch with ret := some (.pixel 10) } })

/-- 40_framebuffer.md R114: PIX_PACK returns `hi * 16 + lo`, changes nothing else, and is the inverse of the two
unpackings (derived in the spec). -/
def Obligations.PixPackInvertsUnpacking : Prop :=
  (∀ (s : State) (hi lo : Pixel), ∃ b : Byte, b.toNat = hi.toNat * 16 + lo.toNat ∧
    exec (.pixPack hi lo) s = .next { s with scratch := { s.scratch with ret := some (.byte b) } }) ∧
  (∀ b : Byte, pixPack (pixHi b) (pixLo b) = b) ∧
  (∀ h l : Pixel, pixLo (pixPack h l) = l ∧ pixHi (pixPack h l) = h)

/-- 40_framebuffer.md R115, 20_memory.md R53: FB_PIXEL reads the byte at `8 r + c div 2`, low nibble for an even
column, and changes nothing else (derived in the spec). -/
def Obligations.FbPixelReadsItsNibble : Prop :=
  ∀ (s : State) (r : Nat) (c : BitVec 4), r < s.build.rows →
    ∃ v : Pixel,
      v.toNat = (if c.toNat % 2 = 0 then (s.fb.byteAt (r * 8 + c.toNat / 2)).toNat % 16
                 else (s.fb.byteAt (r * 8 + c.toNat / 2)).toNat / 16) ∧
      exec (.fbPixel r c) s = .next { s with scratch := { s.scratch with ret := some (.pixel v) } }

/-- 20_memory.md R57, 40_framebuffer.md R115: one write changes the two pixels of its byte, together, and no other
pixel of the grid (derived in the spec, decision D26). -/
def Obligations.WriteChangesExactlyTwoPixels : Prop :=
  ∀ (capacity : Nat) (m : Memory) (o : Nat) (d : Byte) (r c : Nat), Memory.wf capacity m → c < Config.columns →
    (Memory.setByte m o d).pixel r c =
      if r * 8 + c / 2 = o then (if c % 2 = 0 then pixLo d else pixHi d) else m.pixel r c

/-- Operands and registers outside the ranges the spec gives stop under a name of their own (derived: log 15; 20_memory.md
R59, 30_encoding.md R93 say none occurs). -/
def Obligations.OutOfRangeStopsByName : Prop :=
  (∀ (s : State) (o : Nat), s.build.capacity ≤ o →
    exec (.fbRead o) s = .fault (.addressOutOfRange o) ∧ ∀ d, exec (.fbWrite o d) s = .fault (.addressOutOfRange o)) ∧
  (∀ (s : State) (r : Nat), s.build.rows ≤ r →
    exec (.select r) s = .fault (.rowOutOfRange r) ∧
    ∀ c, ∃ o, s.build.capacity ≤ o ∧ exec (.fbPixel r c) s = .fault (.addressOutOfRange o)) ∧
  (∀ (s : State) (v : BitVec 4), exec (.laneGt v 15) s = .fault (.levelOutOfRange 15)) ∧
  (∀ s : State, s.build.capacity ≤ s.rowOffset + 7 → ∃ o, exec .tFetch s = .fault (.addressOutOfRange o)) ∧
  (∀ s : State, Config.levels1 ≤ s.level → exec .tThresh s = .fault (.levelOutOfRange s.level)) ∧
  (∀ s : State, s.build.rows ≤ s.row → exec .tSel s = .fault (.rowOutOfRange s.row))

/-! ## The row selector -/

/-- 41_row_select.md R120 (stated): SELECT returns the bank that holds the row, one enable line low, and the row's
offset in the bank, shifted; it changes nothing else; its corner cases and its example in the reference instance. -/
def Obligations.SelectReturnsTheBankAndOffset : Prop :=
  (∀ r : Nat, encode (.select r) = .select r) ∧
  (∀ (s : State) (r : Nat), r < s.build.rows →
    exec (.select r) s = .next { s with scratch := { s.scratch with ret := some (.enpat (selectRow s.build r)) } }) ∧
  (∀ (b : Build) (row : Nat),
    (selectRow b row).bank = (if row < b.bankN1 then 0 else if row < b.bankN2 then 1 else 2) ∧
    (selectRow b row).sel = (if row < b.bankN1 then row else if row < b.bankN2 then row - b.bankN1
      else row - b.bankN2) * 2 ^ Config.selShift) ∧
  (∀ e : Enpat, ∀ j < 3, (enableLines e).getLsbD j = decide (j ≠ e.bank.val)) ∧
  (∀ b : Build, b.legal → selectRow b 0 = ⟨0, 0⟩ ∧
    selectRow b (b.rows - 1) = ⟨2, (b.rows - 1 - b.bankN2) * 2 ^ Config.selShift⟩ ∧
    (selectRow b (b.bankN1 - 1)).bank ≠ (selectRow b b.bankN1).bank) ∧
  selectWith 16 32 0 17 = ⟨1, 1⟩ ∧ enableLines (selectWith 16 32 0 17) = 0b101

/-- 41_row_select.md R123: the laws of every instance: exactly one active bank, the one whose range holds the row, and
different rows have different patterns (derived in the spec). -/
def Obligations.SelectorLawsForEveryInstance : Prop :=
  ∀ n1 n2 rows shift : Nat, 0 < n1 → n1 < n2 → n2 < rows →
    (∀ row < rows, ∃ j : Fin 3, (selectWith n1 n2 shift row).bank = j ∧
      (∀ k < 3, (enableLines (selectWith n1 n2 shift row)).getLsbD k = false ↔ k = j.val) ∧
      bankBase n1 n2 j ≤ row ∧ (j = 0 → row < n1) ∧ (j = 1 → row < n2)) ∧
    (∀ r < rows, ∀ r' < rows, selectWith n1 n2 shift r = selectWith n1 n2 shift r' → r = r')

/-- 41_row_select.md R121, R124: the open bounds of every build the spec admits are legal, and different rows put
different values on the ports, each within the port's width (derived: decisions D7, D8, log 5, 6). -/
def Obligations.DifferentRowsDifferentPorts : Prop :=
  ∀ b : Build, b.legal →
    (0 < b.bankN1 ∧ b.bankN1 < b.bankN2 ∧ b.bankN2 < b.rows) ∧
    (∀ r < b.rows, portsFit b.portW (portEncode b (selectRow b r))) ∧
    ∀ r < b.rows, ∀ r' < b.rows, portEncode b (selectRow b r) = portEncode b (selectRow b r') → r = r'

/-! ## The loader -/

/-- 42_ingestion.md R131 (stated): a marker byte other than the last, at its position, moves `step` by one and changes
nothing else; its words; at step 0 the byte 0xDE is a match under either value of M0_RESTART; a marker byte of another
position is none; its example. -/
def Obligations.MarkerByteMovesTheStep : Prop :=
  (∀ s : State, s.enabled = true → s.tseq = .idle → s.phase = .seeking →
    (s.step = 0 → operationOf s.mode (.rx 0xDE) = .rxM0 ∧ exec .rxM0 s = .next { s with step := 1 }) ∧
    (s.step = 1 → operationOf s.mode (.rx 0xAD) = .rxM1 ∧ exec .rxM1 s = .next { s with step := 2 }) ∧
    (s.step = 2 → operationOf s.mode (.rx 0xBE) = .rxM2 ∧ exec .rxM2 s = .next { s with step := 3 }) ∧
    (s.step = 3 → operationOf s.mode (.rx 0xEF) = .rxM3 ∧ exec .rxM3 s = .next { s with step := 4 }) ∧
    (s.step = 4 → operationOf s.mode (.rx 0x01) = .rxM4 ∧ exec .rxM4 s = .next { s with step := 5 })) ∧
  (encode .rxM0 = .ev10 0x2DE ∧ encode .rxM1 = .ev10 0x2AD ∧ encode .rxM2 = .ev10 0x2BE ∧
    encode .rxM3 = .ev10 0x2EF ∧ encode .rxM4 = .ev10 0x201) ∧
  (∀ (b : Build) (w : Nat), operationOf ⟨b, .idle, .seeking, 0, w⟩ (.rx 0xDE) = .rxM0 ∧
    operationOf ⟨b, .idle, .seeking, 0, w⟩ (.rx 0xAD) = .rxMiss 0xAD)

/-- 42_ingestion.md R132: the last marker byte starts the copy at offset 0, asserts the indicator and changes nothing
else, the buffer included (derived: `step` 0 is the decision D29, IND the decision D22). -/
def Obligations.LastMarkerByteStartsTheCopy : Prop :=
  ∀ s : State, s.enabled = true → s.tseq = .idle → s.phase = .seeking → s.step = 5 →
    operationOf s.mode (.rx 0x02) = .rxM5 ∧
    exec .rxM5 s = .next { s with phase := .copying, writeOffset := 0, step := 0, trace := s.trace ++ [.ind] }

/-- 42_ingestion.md R133: in a build with M0_RESTART a mismatching M0 restarts the search at step 1 and changes nothing
else; in a build without it is a miss, which resets the search (derived: decision D6, log 8). -/
def Obligations.MismatchingM0RestartsTheSearch : Prop :=
  ∀ s : State, s.enabled = true → s.tseq = .idle → s.phase = .seeking → 1 ≤ s.step.val →
    (s.build.m0Restart = true →
      operationOf s.mode (.rx 0xDE) = .rxRestart ∧ exec .rxRestart s = .next { s with step := 1 }) ∧
    (s.build.m0Restart = false →
      operationOf s.mode (.rx 0xDE) = .rxMiss 0xDE ∧ exec (.rxMiss 0xDE) s = .next { s with step := 0 })

/-- 42_ingestion.md R138 (stated): any other mismatch sets `step` to 0 and changes nothing else; at step 0 it changes
nothing; its words; it is chosen under either M0_RESTART exactly where no match and no restart is; its example. -/
def Obligations.OtherMismatchResetsTheSearch : Prop :=
  (∀ (s : State) (d : Byte), s.enabled = true → s.tseq = .idle → s.phase = .seeking →
    d ≠ Config.markerByte s.step → ¬ (d = Config.markerByte 0 ∧ s.build.m0Restart = true) →
    operationOf s.mode (.rx d) = .rxMiss d ∧ exec (.rxMiss d) s = .next { s with step := 0 } ∧
    (s.step = 0 → exec (.rxMiss d) s = .next s)) ∧
  (∀ (m : DecodeMode) (d : Byte), m.phase = .seeking →
    (operationOf m (.rx d) = .rxMiss d ↔
      d ≠ Config.markerByte m.step ∧ ¬ (d = Config.markerByte 0 ∧ m.build.m0Restart = true))) ∧
  (∀ d : Byte, encode (.rxMiss d) = .ev10 ((0b10 : BitVec 2) ++ d)) ∧
  (∀ s : State, s.enabled = true → s.tseq = .idle → s.phase = .seeking → s.step = 3 →
    exec (.rxMiss 0xEE) s = .next { s with step := 0 })

/-- 42_ingestion.md R134 (stated): a payload byte other than the last is stored unchanged at `writeOffset`, whatever it
is, `writeOffset` moves by one, and nothing else changes, the trace included. -/
def Obligations.PayloadByteIsStored : Prop :=
  ∀ (s : State) (d : Byte), s.enabled = true → s.tseq = .idle → s.phase = .copying →
    s.writeOffset + 1 < s.build.capacity → Memory.wf s.build.capacity s.fb →
    encode (.rxCopy d) = .ev10 ((0b10 : BitVec 2) ++ d) ∧ operationOf s.mode (.rx d) = .rxCopy d ∧
    ∃ t, exec (.rxCopy d) s = .next t ∧ t.fb.byteAt s.writeOffset = d ∧
      (∀ a, a ≠ s.writeOffset → t.fb.byteAt a = s.fb.byteAt a) ∧
      t.writeOffset = s.writeOffset + 1 ∧ t = { s with fb := t.fb, writeOffset := t.writeOffset }

/-- 42_ingestion.md R135 (stated): the payload byte that fills the buffer is stored in the last cell, `writeOffset`
becomes CAPACITY, the phase becomes Seeking in the same step, and nothing else changes, the trace included. -/
def Obligations.LastPayloadByteEndsTheCopy : Prop :=
  ∀ (s : State) (d : Byte), s.enabled = true → s.tseq = .idle → s.phase = .copying →
    s.writeOffset + 1 = s.build.capacity → Memory.wf s.build.capacity s.fb →
    encode (.rxCopyLast d) = .ev10 ((0b10 : BitVec 2) ++ d) ∧ operationOf s.mode (.rx d) = .rxCopyLast d ∧
    ∃ t, exec (.rxCopyLast d) s = .next t ∧ t.fb.byteAt (s.build.capacity - 1) = d ∧
      (∀ a, a ≠ s.build.capacity - 1 → t.fb.byteAt a = s.fb.byteAt a) ∧
      t.writeOffset = s.build.capacity ∧ t.phase = .seeking ∧
      t = { s with fb := t.fb, writeOffset := t.writeOffset, phase := .seeking }

/-- 42_ingestion.md R143: all transitions of the loader in a good state, and that no sequencer event makes one. A
mismatching M0 gives step 1 in a build with M0_RESTART and step 0 in one without (derived in the spec; decision D6, log
8). -/
def Obligations.LoaderControlFlow : Prop :=
  (∀ (s t : State) (d : Byte), Inv s → acceptEvent s (.rx d) = some t →
    (s.phase = .seeking ∧ d = Config.markerByte s.step ∧ s.step.val < 5 ∧ t.phase = .seeking ∧
      t.step.val = s.step.val + 1 ∧ t.writeOffset = s.writeOffset) ∨
    (s.phase = .seeking ∧ d = Config.markerByte s.step ∧ s.step = 5 ∧ t.phase = .copying ∧ t.step = 0 ∧
      t.writeOffset = 0) ∨
    (s.phase = .seeking ∧ d ≠ Config.markerByte s.step ∧ d = Config.markerByte 0 ∧ s.build.m0Restart = true ∧
      t.phase = .seeking ∧ t.step = 1 ∧ t.writeOffset = s.writeOffset) ∨
    (s.phase = .seeking ∧ d ≠ Config.markerByte s.step ∧ (d = Config.markerByte 0 → s.build.m0Restart = false) ∧
      t.phase = .seeking ∧ t.step = 0 ∧ t.writeOffset = s.writeOffset) ∨
    (s.phase = .copying ∧ s.writeOffset + 1 < s.build.capacity ∧ t.phase = .copying ∧ t.step = 0 ∧
      t.writeOffset = s.writeOffset + 1) ∨
    (s.phase = .copying ∧ s.writeOffset + 1 = s.build.capacity ∧ t.phase = .seeking ∧ t.step = 0 ∧
      t.writeOffset = s.build.capacity)) ∧
  (∀ (s t : State) (e : Event), e = .tick ∨ e = .txdone → acceptEvent s e = some t →
    t.phase = s.phase ∧ t.step = s.step ∧ t.writeOffset = s.writeOffset) ∧
  (∀ s t : State, acceptEvent s .reset = some t → t.phase = .seeking ∧ t.step = 0)

/-- 42_ingestion.md R137: in a build with M0_RESTART, from the start of a search, as long as the bytes received hold no
marker, `step` is the length of the longest marker prefix that ends them; and the loader enters the copy with the byte
that completes the first marker (derived in the spec; decision D6, log 8). -/
def Obligations.RecogniserTracksTheLongestPrefix : Prop :=
  ∀ (s : State) (ds : List Byte), s.build.m0Restart = true →
    s.enabled = true → s.tseq = .idle → s.phase = .seeking → s.step = 0 →
    (∀ n < ds.length, ¬ Config.marker.toList <:+ ds.take n) →
    ∃ t, acceptAll s (ds.map .rx) = some t ∧ t.fb = s.fb ∧
      (¬ Config.marker.toList <:+ ds →
        t.phase = .seeking ∧ Config.marker.toList.take t.step.val <:+ ds ∧
        ∀ n ≤ 5, Config.marker.toList.take n <:+ ds → n ≤ t.step.val) ∧
      (Config.marker.toList <:+ ds → t.phase = .copying ∧ t.step = 0 ∧ t.writeOffset = 0)

/-- 42_ingestion.md R137, last sentence: in a build of either M0_RESTART the loader never takes for a marker what is
none: while the bytes of a search have not brought it into the copy `step` marker bytes end them, and the byte that
brings it there completes a marker; but without M0_RESTART it misses the marker in DE DE AD BE EF 01 02, which it
recognises with it (derived in the spec; decision D6, log 8). -/
def Obligations.RecogniserAcceptsOnlyMarkers : Prop :=
  (∀ (s t : State) (ds : List Byte), s.phase = .seeking → s.step = 0 → acceptAll s (ds.map .rx) = some t →
    (∀ n < ds.length, ∀ u, acceptAll s ((ds.take n).map .rx) = some u → u.phase = .seeking) →
    (t.phase = .seeking → Config.marker.toList.take t.step.val <:+ ds) ∧
    (t.phase = .copying → Config.marker.toList <:+ ds)) ∧
  (∀ s : State, s.enabled = true → s.tseq = .idle → s.phase = .seeking → s.step = 0 →
    ∃ t, acceptAll s ([0xDE, 0xDE, 0xAD, 0xBE, 0xEF, 0x01, 0x02].map .rx) = some t ∧
      (s.build.m0Restart = false → t.phase = .seeking ∧ t.step = 0) ∧
      (s.build.m0Restart = true → t.phase = .copying))

/-- 42_ingestion.md R139, R136, 20_memory.md R63: a copy goes on to its end whatever bytes come and whatever ticks fall
between them: the bytes are stored in order from `writeOffset` on, the rest of the buffer stays, no marker is seen
(derived in the spec). -/
def Obligations.CopyIsNotInterrupted : Prop :=
  ∀ (s t : State) (es : List Event), Inv s → s.phase = .copying → Event.reset ∉ es →
    s.writeOffset + (receivedBytes es).length < s.build.capacity → acceptAll s es = some t →
    t.phase = .copying ∧ t.writeOffset = s.writeOffset + (receivedBytes es).length ∧
    (∀ (i : Nat) (h : i < (receivedBytes es).length), t.fb.byteAt (s.writeOffset + i) = (receivedBytes es)[i]) ∧
    (∀ a, a < s.writeOffset ∨ s.writeOffset + (receivedBytes es).length ≤ a → t.fb.byteAt a = s.fb.byteAt a) ∧
    countInd t.trace = countInd s.trace

/-- 42_ingestion.md R140: a marker and exactly CAPACITY bytes, in any interleaving with ticks and completions, replace
the whole buffer, assert the indicator once and leave the loader searching (derived in the spec). -/
def Obligations.WholeFrameReplacesTheBuffer : Prop :=
  ∀ (s t : State) (es : List Event) (p : List Byte), Inv s → s.phase = .seeking → s.step = 0 → Event.reset ∉ es →
    p.length = s.build.capacity → receivedBytes es = Config.marker.toList ++ p → acceptAll s es = some t →
    t.phase = .seeking ∧ t.step = 0 ∧ t.writeOffset = s.build.capacity ∧
    (∀ (i : Nat) (h : i < p.length), t.fb.byteAt i = p[i]) ∧
    countInd t.trace = countInd s.trace + 1

/-- 42_ingestion.md R141: the same frame sent twice leaves the same buffer after the second as after the first (derived
in the spec). -/
def Obligations.SameFrameTwiceSameBuffer : Prop :=
  ∀ (s t u : State) (es es' : List Event) (p : List Byte), Inv s → s.phase = .seeking → s.step = 0 →
    Event.reset ∉ es → Event.reset ∉ es' → p.length = s.build.capacity →
    receivedBytes es = Config.marker.toList ++ p → receivedBytes es' = Config.marker.toList ++ p →
    acceptAll s es = some t → acceptAll t es' = some u → u.fb = t.fb

/-! ## The refresh sequencer -/

/-- 43_refresh.md R152: the cursor after T.ADVANCE as a function of the cursor before, and nothing else changes
(derived: the move of `rowOffset` is the decision D17, log 9). -/
def Obligations.AdvanceMovesTheCursor : Prop :=
  ∀ s : State, s.row < s.build.rows → s.level < Config.levels1 → s.rowOffset = s.row * 8 →
    (s.level < 14 → exec .tAdvance s = .next { s with level := s.level + 1 }) ∧
    (s.level = 14 → s.row + 1 < s.build.rows →
      exec .tAdvance s = .next { s with level := 0, row := s.row + 1, rowOffset := (s.row + 1) * 8 }) ∧
    (s.level = 14 → s.row + 1 = s.build.rows → exec .tAdvance s = .next { s with level := 0, row := 0, rowOffset := 0 })

/-- 43_refresh.md R153 (stated): sub-step 2 of TICK; T.FETCH reads the 8 bytes from `rowOffset` on into the transient row and changes
nothing else; after RESET they are all 0xFF. -/
def Obligations.FetchReadsTheRowBlock : Prop :=
  encode .tFetch = .sub 0b0100000000 2 ∧
  (∀ s : State, s.rowOffset + 7 < s.build.capacity →
    ∃ rb : Vector Byte 8, exec .tFetch s = .next { s with scratch := { s.scratch with rb := rb } } ∧
      ∀ (k : Nat) (h : k < 8), rb[k] = s.fb.byteAt (s.rowOffset + k)) ∧
  (∀ s t u : State, exec .reset s = .next t → exec .tFetch t = .next u →
    ∀ (k : Nat) (h : k < 8), u.scratch.rb[k] = 0xFF)

/-- 43_refresh.md R154 (stated): sub-step 3 of TICK; T.THRESH compares the low and the high nibble of each of the 8 row bytes with the
level; where the row is the fetched row-block, lane `c` is the decision on pixel `(row, c)`; nothing else changes; its
example. -/
def Obligations.ThresholdDecidesEveryLane : Prop :=
  encode .tThresh = .sub 0b0100000000 3 ∧
  (∀ s : State, s.level < Config.levels1 →
    ∃ on : Vector Bool 16, exec .tThresh s = .next { s with scratch := { s.scratch with on := on } } ∧
      (∀ (j : Nat) (h : j < 8), on[2 * j] = laneGt (pixLo s.scratch.rb[j]) s.level ∧
        on[2 * j + 1] = laneGt (pixHi s.scratch.rb[j]) s.level) ∧
      ((∀ (k : Nat) (h : k < 8), s.scratch.rb[k] = s.fb.byteAt (s.row * 8 + k)) →
        ∀ (c : Nat) (h : c < 16), on[c] = laneGt (s.fb.pixel s.row c) s.level)) ∧
  (∀ s t : State, s.level = 5 → s.scratch.rb[0] = 0xA3 → exec .tThresh s = .next t →
    t.scratch.on[0] = false ∧ t.scratch.on[1] = true)

/-- 43_refresh.md R155, 30_encoding.md R86: T.PACK puts decision `c` into bit `c mod 8` of output byte `c div 8` and
changes nothing else (derived: decisions D9, D10, log 18). -/
def Obligations.PackPlacesEveryLane : Prop :=
  ∀ s : State, ∃ b0 b1 : Byte, exec .tPack s = .next { s with ob0 := b0, ob1 := b1 } ∧
    ∀ (i : Nat) (h : i < 8), b0.getLsbD i = s.scratch.on[i] ∧ b1.getLsbD i = s.scratch.on[8 + i]

/-- 43_refresh.md R156, R170: LANE_GT is on exactly if the value is strictly greater than the level, and changes nothing
else; comparing masked bytes as 8-bit numbers gives the same decisions (derived: on as 1 is the decision D9, log 18; R170
is derived in the spec). -/
def Obligations.LaneIsOnAboveTheLevel : Prop :=
  (∀ (s : State) (v l : BitVec 4), l.toNat < 15 →
    exec (.laneGt v l) s
      = .next { s with scratch := { s.scratch with ret := some (.bit (decide (v.toNat > l.toNat))) } }) ∧
  (∀ (b : Byte) (l : Nat), l < 15 →
    decide ((b &&& 0x0F).toNat > l) = laneGt (pixLo b) l ∧ decide ((b &&& 0xF0).toNat > l * 16) = laneGt (pixHi b) l)

/-- 43_refresh.md R157, R172: each transmit sub-step hands over its byte, waits in its state and changes nothing else
(derived: `ob0` first is the decision D11, log 18). -/
def Obligations.TransmitHandsOverTheBytes : Prop :=
  ∀ s : State, exec .tTx0 s = .next { s with tseq := .wait0, trace := s.trace ++ [.tx s.ob0] } ∧
    exec .tTx1 s = .next { s with tseq := .wait1, trace := s.trace ++ [.tx s.ob1] }

/-- 43_refresh.md R160, R162 (stated): T.STBHI drives the strobe high, T.STBLO drives it low; each says so on the trace
and changes nothing else. -/
def Obligations.StrobeRisesAndFalls : Prop :=
  encode .tStbHi = .sub 0b1100000000 1 ∧ encode .tStbLo = .sub 0b1100000000 3 ∧
  (∀ s : State, exec .tStbHi s = .next { s with strobe := true, trace := s.trace ++ [.stb true] } ∧
    exec .tStbLo s = .next { s with strobe := false, trace := s.trace ++ [.stb false] })

/-- 43_refresh.md R161: T.SEL writes the encoded pattern of the cursor's row to the ports, in one output event, and
changes nothing else (derived: decisions D8, D13, log 6, 19). -/
def Obligations.SelectWritesThePorts : Prop :=
  ∀ s : State, s.row < s.build.rows →
    exec .tSel s = .next { s with ports := portEncode s.build (selectRow s.build s.row),
                                  trace := s.trace ++ [.sel (portEncode s.build (selectRow s.build s.row))] }

/-- 43_refresh.md R150 (stated): a TICK in IDLE is its five sub-steps in order, in one step, ends in WAIT0 with one TX
event appended, and is refused when not IDLE; its word; its example from the reset state. -/
def Obligations.TickIsItsSubSteps : Prop :=
  encode .tick = .ev10 0b0100000000 ∧
  (∀ s : State, s.enabled = true → s.tseq = .idle → s.row < s.build.rows → s.rowOffset = s.row * 8 →
    ∃ a b c d t, exec .tAdvance s = .next a ∧ exec .tFetch a = .next b ∧ exec .tThresh b = .next c ∧
      exec .tPack c = .next d ∧ exec .tTx0 d = .next t ∧ exec .tick s = .next { t with scratch := Scratch.empty } ∧
      t.tseq = .wait0 ∧ t.trace = s.trace ++ [.tx t.ob0]) ∧
  (∀ s : State, s.enabled = true → s.tseq ≠ .idle → exec .tick s = .refused .tickWhileBusy) ∧
  (∀ s t u : State, exec .reset s = .next t → exec .tick t = .next u →
    u.row = 0 ∧ u.level = 1 ∧ u.ob0 = 0xFF ∧ u.ob1 = 0xFF ∧ u.tseq = .wait0 ∧ u.trace = [.tx 0xFF])

/-- 43_refresh.md R151, 20_memory.md R64: a TICK outputs the advanced row at the advanced level, all sixteen lanes from
the buffer as it stands, hands over the first byte, and changes nothing but the cursor, the output bytes, `tseq` and
the trace (derived: decisions D9 to D11, D17). -/
def Obligations.TickOutputsTheAdvancedRow : Prop :=
  ∀ s : State, s.enabled = true → s.tseq = .idle → s.row < s.build.rows → s.level < Config.levels1 →
    s.rowOffset = s.row * 8 →
    ∃ t, exec .tick s = .next t ∧
      t.level = (if s.level = 14 then 0 else s.level + 1) ∧
      t.row = (if s.level = 14 then (s.row + 1) % s.build.rows else s.row) ∧
      t.rowOffset = t.row * 8 ∧
      (∀ c < Config.columns, outputBit t.ob0 t.ob1 c = decide ((s.fb.pixel t.row c).toNat > t.level)) ∧
      t.trace = s.trace ++ [.tx t.ob0] ∧
      t = { s with row := t.row, level := t.level, rowOffset := t.rowOffset, ob0 := t.ob0, ob1 := t.ob1,
                   tseq := .wait0, trace := t.trace, scratch := Scratch.empty }

/-- 43_refresh.md R158: the first completion runs T.TX1 and nothing else: the second byte is handed over as it was
computed at the tick (derived: decisions D11, D24). -/
def Obligations.FirstCompletionSendsTheSecondByte : Prop :=
  ∀ s : State, s.enabled = true → s.tseq = .wait0 →
    operationOf s.mode .txdone = .txdoneW0 ∧
    exec .txdoneW0 s = .next { s with tseq := .wait1, trace := s.trace ++ [.tx s.ob1] } ∧
    exec .txdoneW0 s = exec .tTx1 s

/-- 43_refresh.md R159: the second completion runs T.STBHI, T.SEL, T.STBLO in order and returns to IDLE: the ports
change between the strobe's rise and fall; nothing else changes (derived: decisions D13, D24). -/
def Obligations.SecondCompletionLatchesTheRow : Prop :=
  ∀ s : State, s.enabled = true → s.tseq = .wait1 → s.row < s.build.rows →
    operationOf s.mode .txdone = .txdoneW1 ∧
    exec .txdoneW1 s = .next
      { s with strobe := false, ports := portEncode s.build (selectRow s.build s.row), tseq := .idle,
               trace := s.trace ++ [.stb true, .sel (portEncode s.build (selectRow s.build s.row)), .stb false] } ∧
    ∃ a b c, exec .tStbHi s = .next a ∧ exec .tSel a = .next b ∧ exec .tStbLo b = .next c ∧
      exec .txdoneW1 s = .next { c with tseq := .idle }

/-- 43_refresh.md R163: a completed tick of a good idle state appends exactly five output events, in order, for the
advanced row, and leaves the block idle with the buffer and the loader as they were (derived in the spec; the output bits
and the order of the two bytes rest on the decisions D9 to D11, log 18, one SEL event on D13, log 19, the fetched row on
D17, log 9). -/
def Obligations.CompletedTickOutputs : Prop :=
  ∀ s : State, Inv s → s.tseq = .idle →
    ∃ t, completedTick s = some t ∧ t.tseq = .idle ∧
      t.trace = s.trace ++ [.tx t.ob0, .tx t.ob1, .stb true, .sel (portEncode t.build (selectRow t.build t.row)), .stb false] ∧
      t.ports = portEncode t.build (selectRow t.build t.row) ∧ t.cursorNumber = (s.cursorNumber + 1) % s.build.cycleTicks ∧
      (∀ c < Config.columns, outputBit t.ob0 t.ob1 c = decide ((s.fb.pixel t.row c).toNat > t.level)) ∧
      t.fb = s.fb ∧ t.phase = s.phase ∧ t.step = s.step ∧ t.writeOffset = s.writeOffset

/-- 43_refresh.md R166: whatever else is accepted, `n` ticks move the cursor `n` places along the cycle of CYCLE_TICKS
places, 720 on this hardware, and the place names the pair: after the `t`-th tick since RESET the cursor is the pair
numbered `t mod CYCLE_TICKS` (derived in the spec). -/
def Obligations.CursorRunsThroughTheCycle : Prop :=
  (∀ (s t : State) (es : List Event), Inv s → Event.reset ∉ es → acceptAll s es = some t →
    t.cursorNumber = (s.cursorNumber + tickCount es) % s.build.cycleTicks ∧
    t.row = t.cursorNumber / 15 ∧ t.level = t.cursorNumber % 15) ∧
  State.reset.cursorNumber = 0 ∧ State.reset.build.cycleTicks = 720

/-- 43_refresh.md R165: over the 15 completed ticks that visit a row, with no byte received between them, a pixel of
value `v` is on in exactly `v` passes, the first `v` of them (derived in the spec; "on" is read off the output bits,
decisions D9, D10, log 18, of the fetched row, decision D17, log 9). -/
def Obligations.PixelIsLitForItsValue : Prop :=
  ∀ (s : State) (c : Nat), Inv s → s.tseq = .idle → s.level = 14 → c < Config.columns →
    (∀ k < 15, ∃ t, completedTicks (k + 1) s = some t ∧ t.row = (s.row + 1) % s.build.rows ∧ t.level = k ∧
      outputBit t.ob0 t.ob1 c = decide (k < (s.fb.pixel ((s.row + 1) % s.build.rows) c).toNat)) ∧
    (List.range 15).countP (fun k => (completedTicks (k + 1) s).any (fun t => outputBit t.ob0 t.ob1 c))
      = (s.fb.pixel ((s.row + 1) % s.build.rows) c).toNat

/-- 20_memory.md R61: a payload byte is seen by every tick accepted after it, whatever is accepted between but a RESET
or a store to the same offset, with nothing done to make it visible; no run of fewer than CAPACITY + 6 further bytes
stores to that offset; and a tick sees the buffer as it stands when the tick is accepted, hence no byte received later
(derived: what is seen is read off the output bits, decisions D9, D10, log 18, of the advanced row, decision D17, log
9). -/
def Obligations.WrittenByteIsSeenByLaterTicks : Prop :=
  (∀ (s u v t : State) (d : Byte) (es : List Event) (c : Nat), Inv s → s.phase = .copying →
    acceptEvent s (.rx d) = some u → Event.reset ∉ es → acceptAll u es = some v →
    s.writeOffset ∉ storedOffsets u es →
    acceptEvent v .tick = some t → c < Config.columns → t.row * 8 + c / 2 = s.writeOffset →
    outputBit t.ob0 t.ob1 c = decide ((if c % 2 = 0 then pixLo d else pixHi d).toNat > t.level)) ∧
  (∀ (s u : State) (d : Byte) (es : List Event), Inv s → s.phase = .copying → acceptEvent s (.rx d) = some u →
    Event.reset ∉ es → (receivedBytes es).length < s.build.capacity + 6 → s.writeOffset ∉ storedOffsets u es) ∧
  (∀ (s t : State) (c : Nat), Inv s → acceptEvent s .tick = some t → c < Config.columns →
    outputBit t.ob0 t.ob1 c = decide ((s.fb.pixel t.row c).toNat > t.level))

/-! ## Rules of the whole machine -/

/-- 43_refresh.md R152, R173: only a tick moves the cursor and only RESET restarts it: every other event leaves it, and
`tseq` moves only along IDLE, WAIT0, WAIT1, IDLE (derived in the spec). -/
def Obligations.OnlyTicksMoveTheCursor : Prop :=
  ∀ (s t : State) (e : Event), acceptEvent s e = some t → e ≠ .reset →
    (e ≠ .tick → t.row = s.row ∧ t.level = s.level ∧ t.rowOffset = s.rowOffset ∧ t.ob0 = s.ob0 ∧ t.ob1 = s.ob1) ∧
    (t.tseq = match e, s.tseq with
      | .tick, _ => .wait0
      | .txdone, .wait0 => .wait1
      | .txdone, _ => .idle
      | _, x => x)

/-- 20_memory.md R66, 70_reset_and_hazards.md R221: an event other than RESET leaves the ports and the strobe as they are
and appends neither a SEL nor an STB, or writes the ports once between the strobe's rise and fall, with the strobe low
again at the end (derived: decision D13, log 19). -/
def Obligations.PortsChangeInsideAStrobePulse : Prop :=
  ∀ (s t : State) (e : Event), acceptEvent s e = some t → e ≠ .reset →
    (t.ports = s.ports ∧ t.strobe = s.strobe ∧ countSel t.trace = countSel s.trace ∧
      countStb true t.trace = countStb true s.trace ∧ countStb false t.trace = countStb false s.trace) ∨
    (e = .txdone ∧ s.tseq = .wait1 ∧ t.strobe = false ∧
      t.trace = s.trace ++ [.stb true, .sel t.ports, .stb false])

/-- 10_state.md R43: the sequencer neither reads nor writes the loader's registers and never writes the buffer: with
other loader registers it does the same (derived: from the ownership rule). -/
def Obligations.SequencerIgnoresTheLoader : Prop :=
  ∀ (s t : State) (e : Event) (phase : Phase) (k : Fin 6) (w : Nat), e = .tick ∨ e = .txdone →
    acceptEvent s e = some t →
    t.fb = s.fb ∧ t.phase = s.phase ∧ t.step = s.step ∧ t.writeOffset = s.writeOffset ∧
    acceptEvent { s with phase := phase, step := k, writeOffset := w } e
      = some { t with phase := phase, step := k, writeOffset := w }

/-- 10_state.md R43: the loader neither reads nor writes the sequencer's registers, `tseq` apart, which decides whether
a byte is accepted: with another cursor, other output bytes, other output levels it does the same (derived: from the
ownership rule). -/
def Obligations.LoaderIgnoresTheSequencer : Prop :=
  ∀ (s t : State) (d : Byte) (row level rowOffset : Nat) (b0 b1 : Byte) (strobe : Bool) (ports : Config.Port3),
    acceptEvent s (.rx d) = some t →
    t.row = s.row ∧ t.level = s.level ∧ t.rowOffset = s.rowOffset ∧ t.tseq = s.tseq ∧ t.ob0 = s.ob0 ∧
    t.ob1 = s.ob1 ∧ t.strobe = s.strobe ∧ t.ports = s.ports ∧
    acceptEvent { s with row := row, level := level, rowOffset := rowOffset, ob0 := b0, ob1 := b1, strobe := strobe,
                         ports := ports } (.rx d)
      = some { t with row := row, level := level, rowOffset := rowOffset, ob0 := b0, ob1 := b1, strobe := strobe,
                      ports := ports }
end

