-- ==== Sys2Proof/Laws/Memory.lean ====
section
/-! SUPPORT. The laws of the frame buffer: read after write, the canonical form, and that equal contents are equal
data (20_memory.md). -/

namespace Sys2Proof.Machine

@[simp] theorem capacity_eq (b : Build) : b.capacity = b.rows * 8 := rfl
@[simp] theorem levels1_eq : Config.levels1 = 15 := rfl
@[simp] theorem bytesPerRow_eq : Config.bytesPerRow = 8 := rfl
@[simp] theorem cycleTicks_eq (b : Build) : b.cycleTicks = b.rows * 15 := rfl

@[simp] theorem Memory.byteAt_nil (a : Nat) : Memory.byteAt [] a = Config.resetByte := rfl

/-- An offset below every listed one reads as the reset byte. -/
theorem Memory.byteAt_of_lt {m : Memory} {a : Nat} (h : ∀ c ∈ m, a < c.1) : Memory.byteAt m a = Config.resetByte := by
  induction m with
  | nil => rfl
  | cons c m ih =>
    have hc : a < c.1 := h c (by simp)
    have : Memory.byteAt m a = Config.resetByte := ih fun d hd => h d (by simp [hd])
    simp only [Memory.byteAt, this, if_neg (Nat.ne_of_lt hc)]

/-- Reading after writing, in a memory with rising offsets. -/
theorem Memory.byteAt_setByte {m : Memory} (hm : m.Pairwise fun c d => c.1 < d.1) (a b : Nat) (v : Byte) :
    Memory.byteAt (Memory.setByte m a v) b = if b = a then v else Memory.byteAt m b := by
  induction m with
  | nil =>
    simp only [Memory.setByte]
    split <;> simp_all [Memory.byteAt]
  | cons c m ih =>
    obtain ⟨hc, hm'⟩ := List.pairwise_cons.1 hm
    have below : Memory.byteAt m a = Config.resetByte ∨ c.1 < a := by
      by_cases h : c.1 < a
      · exact .inr h
      · exact .inl (Memory.byteAt_of_lt fun d hd => by have := hc d hd; omega)
    have atc : Memory.byteAt m c.1 = Config.resetByte := Memory.byteAt_of_lt hc
    simp only [Memory.setByte]
    split
    · have : Memory.byteAt m a = Config.resetByte := Memory.byteAt_of_lt fun d hd => by have := hc d hd; omega
      split <;> simp only [Memory.byteAt] <;> by_cases hb : b = a <;> simp_all
      omega
    · split
      · subst_vars
        split <;> simp only [Memory.byteAt] <;> by_cases hb : b = c.1 <;> simp_all
      · simp only [Memory.byteAt, ih hm']
        by_cases hb : b = c.1 <;> by_cases hba : b = a <;> simp_all

theorem Memory.byteAt_setByte_same {cap : Nat} {m : Memory} (hm : Memory.wf cap m) (a : Nat) (v : Byte) :
    Memory.byteAt (Memory.setByte m a v) a = v := by
  simp [Memory.byteAt_setByte hm.1]

theorem Memory.byteAt_setByte_other {cap : Nat} {m : Memory} (hm : Memory.wf cap m) {a b : Nat} (h : b ≠ a) (v : Byte) :
    Memory.byteAt (Memory.setByte m a v) b = Memory.byteAt m b := by
  simp [Memory.byteAt_setByte hm.1, h]

/-- Every entry after a write is the written one or an old one. -/
theorem Memory.mem_setByte {m : Memory} {a : Nat} {v : Byte} {c : Host.Cell} (h : c ∈ Memory.setByte m a v) :
    (c = (a, v) ∧ v ≠ Config.resetByte) ∨ c ∈ m := by
  induction m with
  | nil =>
    simp only [Memory.setByte] at h
    split at h <;> simp_all
  | cons d m ih =>
    simp only [Memory.setByte] at h
    split at h
    · split at h <;> simp_all
    · split at h
      · split at h <;> simp_all
        tauto
      · rcases List.mem_cons.1 h with h | h
        · exact .inr (by simp [h])
        · rcases ih h with h | h
          · exact .inl h
          · exact .inr (by simp [h])

theorem Memory.setByte_rising {m : Memory} (hm : m.Pairwise fun c d => c.1 < d.1) (a : Nat) (v : Byte) :
    (Memory.setByte m a v).Pairwise fun c d => c.1 < d.1 := by
  induction m with
  | nil =>
    simp only [Memory.setByte]
    split <;> simp
  | cons c m ih =>
    obtain ⟨hc, hm'⟩ := List.pairwise_cons.1 hm
    simp only [Memory.setByte]
    split
    · split
      · exact hm
      · refine List.pairwise_cons.2 ⟨fun d hd => ?_, hm⟩
        rcases List.mem_cons.1 hd with rfl | hd
        · assumption
        · have := hc d hd
          simp only
          omega
    · split
      · subst_vars
        split
        · exact hm'
        · exact List.pairwise_cons.2 ⟨hc, hm'⟩
      · refine List.pairwise_cons.2 ⟨fun d hd => ?_, ih hm'⟩
        rcases Memory.mem_setByte hd with ⟨rfl, -⟩ | hd
        · simp only
          omega
        · exact hc d hd

/-- A write inside the buffer keeps the canonical form. -/
theorem Memory.setByte_wf {cap : Nat} {m : Memory} (hm : Memory.wf cap m) {a : Nat} (ha : a < cap) (v : Byte) :
    Memory.wf cap (Memory.setByte m a v) := by
  refine ⟨Memory.setByte_rising hm.1 a v, fun c hc => ?_⟩
  rcases Memory.mem_setByte hc with ⟨rfl, hv⟩ | hc
  · exact ⟨ha, hv⟩
  · exact hm.2 c hc

theorem Memory.nil_wf (cap : Nat) : Memory.wf cap [] := ⟨List.Pairwise.nil, fun _ h => nomatch h⟩

/-- Outside the buffer a canonical memory reads as the reset byte. -/
theorem Memory.byteAt_outside {cap : Nat} {m : Memory} (hm : Memory.wf cap m) {a : Nat} (ha : cap ≤ a) :
    Memory.byteAt m a = Config.resetByte := by
  have h := hm.2
  clear hm
  induction m with
  | nil => rfl
  | cons c m ih =>
    have hc := (h c (by simp)).1
    simp only [Memory.byteAt, if_neg (show a ≠ c.1 by omega)]
    exact ih fun d hd => h d (by simp [hd])

/-- Canonical memories with equal contents are equal. -/
theorem Memory.ext_of_byteAt {cap : Nat} {m n : Memory} (hm : Memory.wf cap m) (hn : Memory.wf cap n)
    (h : ∀ a, Memory.byteAt m a = Memory.byteAt n a) : m = n := by
  have aux : ∀ {c : Host.Cell} {m : Memory}, Memory.wf cap (c :: m) → Memory.wf cap m ∧ (∀ d ∈ m, c.1 < d.1) ∧ c.2 ≠ Config.resetByte := by
    intro c m hw
    obtain ⟨h1, h2⟩ := hw
    obtain ⟨h3, h4⟩ := List.pairwise_cons.1 h1
    exact ⟨⟨h4, fun d hd => h2 d (by simp [hd])⟩, h3, (h2 c (by simp)).2⟩
  induction m generalizing n with
  | nil =>
    cases n with
    | nil => rfl
    | cons d n =>
      have := h d.1
      simp [Memory.byteAt] at this
      exact absurd this.symm (aux hn).2.2
  | cons c m ih =>
    cases n with
    | nil =>
      have := h c.1
      simp [Memory.byteAt] at this
      exact absurd this (aux hm).2.2
    | cons d n =>
      obtain ⟨hm', hc, hcv⟩ := aux hm
      obtain ⟨hn', hd, hdv⟩ := aux hn
      have hcd : c.1 = d.1 := by
        rcases Nat.lt_trichotomy c.1 d.1 with hlt | heq | hgt
        · have e := h c.1
          rw [Memory.byteAt_of_lt (m := d :: n) (a := c.1)
            (by intro x hx; rcases List.mem_cons.1 hx with rfl | hx
                · exact hlt
                · have := hd x hx; omega)] at e
          simp [Memory.byteAt] at e
          exact absurd e hcv
        · exact heq
        · have e := h d.1
          rw [Memory.byteAt_of_lt (m := c :: m) (a := d.1)
            (by intro x hx; rcases List.mem_cons.1 hx with rfl | hx
                · exact hgt
                · have := hc x hx; omega)] at e
          simp [Memory.byteAt] at e
          exact absurd e.symm hdv
      have hv : c.2 = d.2 := by
        have := h c.1
        simpa [Memory.byteAt, hcd] using this
      have htail : m = n := by
        refine ih hm' hn' fun a => ?_
        by_cases ha : a = c.1
        · rw [ha, Memory.byteAt_of_lt hc, hcd, Memory.byteAt_of_lt hd]
        · have := h a
          simp only [Memory.byteAt, if_neg ha] at this
          rwa [if_neg (by omega)] at this
      rw [htail, Prod.ext hcd hv]

/-- Writing the byte that is already there changes nothing. -/
theorem Memory.setByte_byteAt_self {cap : Nat} {m : Memory} (hm : Memory.wf cap m) {a : Nat} (ha : a < cap) :
    Memory.setByte m a (Memory.byteAt m a) = m := by
  refine Memory.ext_of_byteAt (Memory.setByte_wf hm ha _) hm fun b => ?_
  rw [Memory.byteAt_setByte hm.1]
  split <;> simp_all

end Sys2Proof.Machine
end

