-- ==== Sys2Proof/Laws/State.lean ====
section
/-! SUPPORT. What each named update of State does to each field: one lemma per update and field, true by rfl. -/

namespace Sys2Proof.Machine

/-! ## State.emit -/

@[simp] theorem State.emit_build (s : State) (e : OutEvent) : (s.emit e).build = s.build := rfl
@[simp] theorem State.emit_fb (s : State) (e : OutEvent) : (s.emit e).fb = s.fb := rfl
@[simp] theorem State.emit_row (s : State) (e : OutEvent) : (s.emit e).row = s.row := rfl
@[simp] theorem State.emit_level (s : State) (e : OutEvent) : (s.emit e).level = s.level := rfl
@[simp] theorem State.emit_rowOffset (s : State) (e : OutEvent) : (s.emit e).rowOffset = s.rowOffset := rfl
@[simp] theorem State.emit_phase (s : State) (e : OutEvent) : (s.emit e).phase = s.phase := rfl
@[simp] theorem State.emit_step (s : State) (e : OutEvent) : (s.emit e).step = s.step := rfl
@[simp] theorem State.emit_writeOffset (s : State) (e : OutEvent) : (s.emit e).writeOffset = s.writeOffset := rfl
@[simp] theorem State.emit_tseq (s : State) (e : OutEvent) : (s.emit e).tseq = s.tseq := rfl
@[simp] theorem State.emit_ob0 (s : State) (e : OutEvent) : (s.emit e).ob0 = s.ob0 := rfl
@[simp] theorem State.emit_ob1 (s : State) (e : OutEvent) : (s.emit e).ob1 = s.ob1 := rfl
@[simp] theorem State.emit_strobe (s : State) (e : OutEvent) : (s.emit e).strobe = s.strobe := rfl
@[simp] theorem State.emit_ports (s : State) (e : OutEvent) : (s.emit e).ports = s.ports := rfl
@[simp] theorem State.emit_trace (s : State) (e : OutEvent) : (s.emit e).trace = s.trace ++ [e] := rfl
@[simp] theorem State.emit_enabled (s : State) (e : OutEvent) : (s.emit e).enabled = s.enabled := rfl
@[simp] theorem State.emit_input (s : State) (e : OutEvent) : (s.emit e).input = s.input := rfl
@[simp] theorem State.emit_draws (s : State) (e : OutEvent) : (s.emit e).draws = s.draws := rfl
@[simp] theorem State.emit_scratch (s : State) (e : OutEvent) : (s.emit e).scratch = s.scratch := rfl

/-! ## State.driveStrobe -/

@[simp] theorem State.driveStrobe_build (s : State) (h : Bool) : (s.driveStrobe h).build = s.build := rfl
@[simp] theorem State.driveStrobe_fb (s : State) (h : Bool) : (s.driveStrobe h).fb = s.fb := rfl
@[simp] theorem State.driveStrobe_row (s : State) (h : Bool) : (s.driveStrobe h).row = s.row := rfl
@[simp] theorem State.driveStrobe_level (s : State) (h : Bool) : (s.driveStrobe h).level = s.level := rfl
@[simp] theorem State.driveStrobe_rowOffset (s : State) (h : Bool) : (s.driveStrobe h).rowOffset = s.rowOffset := rfl
@[simp] theorem State.driveStrobe_phase (s : State) (h : Bool) : (s.driveStrobe h).phase = s.phase := rfl
@[simp] theorem State.driveStrobe_step (s : State) (h : Bool) : (s.driveStrobe h).step = s.step := rfl
@[simp] theorem State.driveStrobe_writeOffset (s : State) (h : Bool) : (s.driveStrobe h).writeOffset = s.writeOffset := rfl
@[simp] theorem State.driveStrobe_tseq (s : State) (h : Bool) : (s.driveStrobe h).tseq = s.tseq := rfl
@[simp] theorem State.driveStrobe_ob0 (s : State) (h : Bool) : (s.driveStrobe h).ob0 = s.ob0 := rfl
@[simp] theorem State.driveStrobe_ob1 (s : State) (h : Bool) : (s.driveStrobe h).ob1 = s.ob1 := rfl
@[simp] theorem State.driveStrobe_strobe (s : State) (h : Bool) : (s.driveStrobe h).strobe = h := rfl
@[simp] theorem State.driveStrobe_ports (s : State) (h : Bool) : (s.driveStrobe h).ports = s.ports := rfl
@[simp] theorem State.driveStrobe_trace (s : State) (h : Bool) : (s.driveStrobe h).trace = s.trace ++ [.stb h] := rfl
@[simp] theorem State.driveStrobe_enabled (s : State) (h : Bool) : (s.driveStrobe h).enabled = s.enabled := rfl
@[simp] theorem State.driveStrobe_input (s : State) (h : Bool) : (s.driveStrobe h).input = s.input := rfl
@[simp] theorem State.driveStrobe_draws (s : State) (h : Bool) : (s.driveStrobe h).draws = s.draws := rfl
@[simp] theorem State.driveStrobe_scratch (s : State) (h : Bool) : (s.driveStrobe h).scratch = s.scratch := rfl

/-! ## State.writePorts -/

@[simp] theorem State.writePorts_build (s : State) (p : Config.Port3) : (s.writePorts p).build = s.build := rfl
@[simp] theorem State.writePorts_fb (s : State) (p : Config.Port3) : (s.writePorts p).fb = s.fb := rfl
@[simp] theorem State.writePorts_row (s : State) (p : Config.Port3) : (s.writePorts p).row = s.row := rfl
@[simp] theorem State.writePorts_level (s : State) (p : Config.Port3) : (s.writePorts p).level = s.level := rfl
@[simp] theorem State.writePorts_rowOffset (s : State) (p : Config.Port3) : (s.writePorts p).rowOffset = s.rowOffset := rfl
@[simp] theorem State.writePorts_phase (s : State) (p : Config.Port3) : (s.writePorts p).phase = s.phase := rfl
@[simp] theorem State.writePorts_step (s : State) (p : Config.Port3) : (s.writePorts p).step = s.step := rfl
@[simp] theorem State.writePorts_writeOffset (s : State) (p : Config.Port3) : (s.writePorts p).writeOffset = s.writeOffset := rfl
@[simp] theorem State.writePorts_tseq (s : State) (p : Config.Port3) : (s.writePorts p).tseq = s.tseq := rfl
@[simp] theorem State.writePorts_ob0 (s : State) (p : Config.Port3) : (s.writePorts p).ob0 = s.ob0 := rfl
@[simp] theorem State.writePorts_ob1 (s : State) (p : Config.Port3) : (s.writePorts p).ob1 = s.ob1 := rfl
@[simp] theorem State.writePorts_strobe (s : State) (p : Config.Port3) : (s.writePorts p).strobe = s.strobe := rfl
@[simp] theorem State.writePorts_ports (s : State) (p : Config.Port3) : (s.writePorts p).ports = p := rfl
@[simp] theorem State.writePorts_trace (s : State) (p : Config.Port3) : (s.writePorts p).trace = s.trace ++ [.sel p] := rfl
@[simp] theorem State.writePorts_enabled (s : State) (p : Config.Port3) : (s.writePorts p).enabled = s.enabled := rfl
@[simp] theorem State.writePorts_input (s : State) (p : Config.Port3) : (s.writePorts p).input = s.input := rfl
@[simp] theorem State.writePorts_draws (s : State) (p : Config.Port3) : (s.writePorts p).draws = s.draws := rfl
@[simp] theorem State.writePorts_scratch (s : State) (p : Config.Port3) : (s.writePorts p).scratch = s.scratch := rfl

/-! ## State.transmit -/

@[simp] theorem State.transmit_build (s : State) (b : Byte) (w : TSeq) : (s.transmit b w).build = s.build := rfl
@[simp] theorem State.transmit_fb (s : State) (b : Byte) (w : TSeq) : (s.transmit b w).fb = s.fb := rfl
@[simp] theorem State.transmit_row (s : State) (b : Byte) (w : TSeq) : (s.transmit b w).row = s.row := rfl
@[simp] theorem State.transmit_level (s : State) (b : Byte) (w : TSeq) : (s.transmit b w).level = s.level := rfl
@[simp] theorem State.transmit_rowOffset (s : State) (b : Byte) (w : TSeq) : (s.transmit b w).rowOffset = s.rowOffset := rfl
@[simp] theorem State.transmit_phase (s : State) (b : Byte) (w : TSeq) : (s.transmit b w).phase = s.phase := rfl
@[simp] theorem State.transmit_step (s : State) (b : Byte) (w : TSeq) : (s.transmit b w).step = s.step := rfl
@[simp] theorem State.transmit_writeOffset (s : State) (b : Byte) (w : TSeq) : (s.transmit b w).writeOffset = s.writeOffset := rfl
@[simp] theorem State.transmit_tseq (s : State) (b : Byte) (w : TSeq) : (s.transmit b w).tseq = w := rfl
@[simp] theorem State.transmit_ob0 (s : State) (b : Byte) (w : TSeq) : (s.transmit b w).ob0 = s.ob0 := rfl
@[simp] theorem State.transmit_ob1 (s : State) (b : Byte) (w : TSeq) : (s.transmit b w).ob1 = s.ob1 := rfl
@[simp] theorem State.transmit_strobe (s : State) (b : Byte) (w : TSeq) : (s.transmit b w).strobe = s.strobe := rfl
@[simp] theorem State.transmit_ports (s : State) (b : Byte) (w : TSeq) : (s.transmit b w).ports = s.ports := rfl
@[simp] theorem State.transmit_trace (s : State) (b : Byte) (w : TSeq) : (s.transmit b w).trace = s.trace ++ [.tx b] := rfl
@[simp] theorem State.transmit_enabled (s : State) (b : Byte) (w : TSeq) : (s.transmit b w).enabled = s.enabled := rfl
@[simp] theorem State.transmit_input (s : State) (b : Byte) (w : TSeq) : (s.transmit b w).input = s.input := rfl
@[simp] theorem State.transmit_draws (s : State) (b : Byte) (w : TSeq) : (s.transmit b w).draws = s.draws := rfl
@[simp] theorem State.transmit_scratch (s : State) (b : Byte) (w : TSeq) : (s.transmit b w).scratch = s.scratch := rfl

/-! ## State.fillBuffer -/

@[simp] theorem State.fillBuffer_build (s : State) : (s.fillBuffer).build = s.build := rfl
@[simp] theorem State.fillBuffer_fb (s : State) : (s.fillBuffer).fb = [] := rfl
@[simp] theorem State.fillBuffer_row (s : State) : (s.fillBuffer).row = s.row := rfl
@[simp] theorem State.fillBuffer_level (s : State) : (s.fillBuffer).level = s.level := rfl
@[simp] theorem State.fillBuffer_rowOffset (s : State) : (s.fillBuffer).rowOffset = s.rowOffset := rfl
@[simp] theorem State.fillBuffer_phase (s : State) : (s.fillBuffer).phase = s.phase := rfl
@[simp] theorem State.fillBuffer_step (s : State) : (s.fillBuffer).step = s.step := rfl
@[simp] theorem State.fillBuffer_writeOffset (s : State) : (s.fillBuffer).writeOffset = s.writeOffset := rfl
@[simp] theorem State.fillBuffer_tseq (s : State) : (s.fillBuffer).tseq = s.tseq := rfl
@[simp] theorem State.fillBuffer_ob0 (s : State) : (s.fillBuffer).ob0 = s.ob0 := rfl
@[simp] theorem State.fillBuffer_ob1 (s : State) : (s.fillBuffer).ob1 = s.ob1 := rfl
@[simp] theorem State.fillBuffer_strobe (s : State) : (s.fillBuffer).strobe = s.strobe := rfl
@[simp] theorem State.fillBuffer_ports (s : State) : (s.fillBuffer).ports = s.ports := rfl
@[simp] theorem State.fillBuffer_trace (s : State) : (s.fillBuffer).trace = s.trace := rfl
@[simp] theorem State.fillBuffer_enabled (s : State) : (s.fillBuffer).enabled = s.enabled := rfl
@[simp] theorem State.fillBuffer_input (s : State) : (s.fillBuffer).input = s.input := rfl
@[simp] theorem State.fillBuffer_draws (s : State) : (s.fillBuffer).draws = s.draws := rfl
@[simp] theorem State.fillBuffer_scratch (s : State) : (s.fillBuffer).scratch = s.scratch := rfl

/-! ## State.initRegisters -/

@[simp] theorem State.initRegisters_build (s : State) : (s.initRegisters).build = s.build := rfl
@[simp] theorem State.initRegisters_fb (s : State) : (s.initRegisters).fb = s.fb := rfl
@[simp] theorem State.initRegisters_row (s : State) : (s.initRegisters).row = 0 := rfl
@[simp] theorem State.initRegisters_level (s : State) : (s.initRegisters).level = 0 := rfl
@[simp] theorem State.initRegisters_rowOffset (s : State) : (s.initRegisters).rowOffset = 0 := rfl
@[simp] theorem State.initRegisters_phase (s : State) : (s.initRegisters).phase = .seeking := rfl
@[simp] theorem State.initRegisters_step (s : State) : (s.initRegisters).step = 0 := rfl
@[simp] theorem State.initRegisters_writeOffset (s : State) : (s.initRegisters).writeOffset = 0 := rfl
@[simp] theorem State.initRegisters_tseq (s : State) : (s.initRegisters).tseq = .idle := rfl
@[simp] theorem State.initRegisters_ob0 (s : State) : (s.initRegisters).ob0 = 0 := rfl
@[simp] theorem State.initRegisters_ob1 (s : State) : (s.initRegisters).ob1 = 0 := rfl
@[simp] theorem State.initRegisters_strobe (s : State) : (s.initRegisters).strobe = false := rfl
@[simp] theorem State.initRegisters_ports (s : State) : (s.initRegisters).ports = s.build.freePorts s.draws := rfl
@[simp] theorem State.initRegisters_trace (s : State) : (s.initRegisters).trace = [] := rfl
@[simp] theorem State.initRegisters_enabled (s : State) : (s.initRegisters).enabled = s.enabled := rfl
@[simp] theorem State.initRegisters_input (s : State) : (s.initRegisters).input = s.input := rfl
@[simp] theorem State.initRegisters_draws (s : State) : (s.initRegisters).draws = s.draws + 1 := rfl
@[simp] theorem State.initRegisters_scratch (s : State) : (s.initRegisters).scratch = s.scratch := rfl

/-! ## State.enableEvents -/

@[simp] theorem State.enableEvents_build (s : State) : (s.enableEvents).build = s.build := rfl
@[simp] theorem State.enableEvents_fb (s : State) : (s.enableEvents).fb = s.fb := rfl
@[simp] theorem State.enableEvents_row (s : State) : (s.enableEvents).row = s.row := rfl
@[simp] theorem State.enableEvents_level (s : State) : (s.enableEvents).level = s.level := rfl
@[simp] theorem State.enableEvents_rowOffset (s : State) : (s.enableEvents).rowOffset = s.rowOffset := rfl
@[simp] theorem State.enableEvents_phase (s : State) : (s.enableEvents).phase = s.phase := rfl
@[simp] theorem State.enableEvents_step (s : State) : (s.enableEvents).step = s.step := rfl
@[simp] theorem State.enableEvents_writeOffset (s : State) : (s.enableEvents).writeOffset = s.writeOffset := rfl
@[simp] theorem State.enableEvents_tseq (s : State) : (s.enableEvents).tseq = s.tseq := rfl
@[simp] theorem State.enableEvents_ob0 (s : State) : (s.enableEvents).ob0 = s.ob0 := rfl
@[simp] theorem State.enableEvents_ob1 (s : State) : (s.enableEvents).ob1 = s.ob1 := rfl
@[simp] theorem State.enableEvents_strobe (s : State) : (s.enableEvents).strobe = s.strobe := rfl
@[simp] theorem State.enableEvents_ports (s : State) : (s.enableEvents).ports = s.ports := rfl
@[simp] theorem State.enableEvents_trace (s : State) : (s.enableEvents).trace = s.trace := rfl
@[simp] theorem State.enableEvents_enabled (s : State) : (s.enableEvents).enabled = true := rfl
@[simp] theorem State.enableEvents_input (s : State) : (s.enableEvents).input = s.input := rfl
@[simp] theorem State.enableEvents_draws (s : State) : (s.enableEvents).draws = s.draws := rfl
@[simp] theorem State.enableEvents_scratch (s : State) : (s.enableEvents).scratch = s.scratch := rfl

/-! ## State.dropTransients -/

@[simp] theorem State.dropTransients_build (s : State) : (s.dropTransients).build = s.build := rfl
@[simp] theorem State.dropTransients_fb (s : State) : (s.dropTransients).fb = s.fb := rfl
@[simp] theorem State.dropTransients_row (s : State) : (s.dropTransients).row = s.row := rfl
@[simp] theorem State.dropTransients_level (s : State) : (s.dropTransients).level = s.level := rfl
@[simp] theorem State.dropTransients_rowOffset (s : State) : (s.dropTransients).rowOffset = s.rowOffset := rfl
@[simp] theorem State.dropTransients_phase (s : State) : (s.dropTransients).phase = s.phase := rfl
@[simp] theorem State.dropTransients_step (s : State) : (s.dropTransients).step = s.step := rfl
@[simp] theorem State.dropTransients_writeOffset (s : State) : (s.dropTransients).writeOffset = s.writeOffset := rfl
@[simp] theorem State.dropTransients_tseq (s : State) : (s.dropTransients).tseq = s.tseq := rfl
@[simp] theorem State.dropTransients_ob0 (s : State) : (s.dropTransients).ob0 = s.ob0 := rfl
@[simp] theorem State.dropTransients_ob1 (s : State) : (s.dropTransients).ob1 = s.ob1 := rfl
@[simp] theorem State.dropTransients_strobe (s : State) : (s.dropTransients).strobe = s.strobe := rfl
@[simp] theorem State.dropTransients_ports (s : State) : (s.dropTransients).ports = s.ports := rfl
@[simp] theorem State.dropTransients_trace (s : State) : (s.dropTransients).trace = s.trace := rfl
@[simp] theorem State.dropTransients_enabled (s : State) : (s.dropTransients).enabled = s.enabled := rfl
@[simp] theorem State.dropTransients_input (s : State) : (s.dropTransients).input = s.input := rfl
@[simp] theorem State.dropTransients_draws (s : State) : (s.dropTransients).draws = s.draws := rfl
@[simp] theorem State.dropTransients_scratch (s : State) : (s.dropTransients).scratch = Scratch.empty := rfl

/-! ## State.giveResult -/

@[simp] theorem State.giveResult_build (s : State) (r : FnResult) : (s.giveResult r).build = s.build := rfl
@[simp] theorem State.giveResult_fb (s : State) (r : FnResult) : (s.giveResult r).fb = s.fb := rfl
@[simp] theorem State.giveResult_row (s : State) (r : FnResult) : (s.giveResult r).row = s.row := rfl
@[simp] theorem State.giveResult_level (s : State) (r : FnResult) : (s.giveResult r).level = s.level := rfl
@[simp] theorem State.giveResult_rowOffset (s : State) (r : FnResult) : (s.giveResult r).rowOffset = s.rowOffset := rfl
@[simp] theorem State.giveResult_phase (s : State) (r : FnResult) : (s.giveResult r).phase = s.phase := rfl
@[simp] theorem State.giveResult_step (s : State) (r : FnResult) : (s.giveResult r).step = s.step := rfl
@[simp] theorem State.giveResult_writeOffset (s : State) (r : FnResult) : (s.giveResult r).writeOffset = s.writeOffset := rfl
@[simp] theorem State.giveResult_tseq (s : State) (r : FnResult) : (s.giveResult r).tseq = s.tseq := rfl
@[simp] theorem State.giveResult_ob0 (s : State) (r : FnResult) : (s.giveResult r).ob0 = s.ob0 := rfl
@[simp] theorem State.giveResult_ob1 (s : State) (r : FnResult) : (s.giveResult r).ob1 = s.ob1 := rfl
@[simp] theorem State.giveResult_strobe (s : State) (r : FnResult) : (s.giveResult r).strobe = s.strobe := rfl
@[simp] theorem State.giveResult_ports (s : State) (r : FnResult) : (s.giveResult r).ports = s.ports := rfl
@[simp] theorem State.giveResult_trace (s : State) (r : FnResult) : (s.giveResult r).trace = s.trace := rfl
@[simp] theorem State.giveResult_enabled (s : State) (r : FnResult) : (s.giveResult r).enabled = s.enabled := rfl
@[simp] theorem State.giveResult_input (s : State) (r : FnResult) : (s.giveResult r).input = s.input := rfl
@[simp] theorem State.giveResult_draws (s : State) (r : FnResult) : (s.giveResult r).draws = s.draws := rfl
@[simp] theorem State.giveResult_scratch (s : State) (r : FnResult) : (s.giveResult r).scratch = { s.scratch with ret := some r } := rfl

/-! ## State.latchRow -/

@[simp] theorem State.latchRow_build (s : State) (rb : Vector Byte 8) : (s.latchRow rb).build = s.build := rfl
@[simp] theorem State.latchRow_fb (s : State) (rb : Vector Byte 8) : (s.latchRow rb).fb = s.fb := rfl
@[simp] theorem State.latchRow_row (s : State) (rb : Vector Byte 8) : (s.latchRow rb).row = s.row := rfl
@[simp] theorem State.latchRow_level (s : State) (rb : Vector Byte 8) : (s.latchRow rb).level = s.level := rfl
@[simp] theorem State.latchRow_rowOffset (s : State) (rb : Vector Byte 8) : (s.latchRow rb).rowOffset = s.rowOffset := rfl
@[simp] theorem State.latchRow_phase (s : State) (rb : Vector Byte 8) : (s.latchRow rb).phase = s.phase := rfl
@[simp] theorem State.latchRow_step (s : State) (rb : Vector Byte 8) : (s.latchRow rb).step = s.step := rfl
@[simp] theorem State.latchRow_writeOffset (s : State) (rb : Vector Byte 8) : (s.latchRow rb).writeOffset = s.writeOffset := rfl
@[simp] theorem State.latchRow_tseq (s : State) (rb : Vector Byte 8) : (s.latchRow rb).tseq = s.tseq := rfl
@[simp] theorem State.latchRow_ob0 (s : State) (rb : Vector Byte 8) : (s.latchRow rb).ob0 = s.ob0 := rfl
@[simp] theorem State.latchRow_ob1 (s : State) (rb : Vector Byte 8) : (s.latchRow rb).ob1 = s.ob1 := rfl
@[simp] theorem State.latchRow_strobe (s : State) (rb : Vector Byte 8) : (s.latchRow rb).strobe = s.strobe := rfl
@[simp] theorem State.latchRow_ports (s : State) (rb : Vector Byte 8) : (s.latchRow rb).ports = s.ports := rfl
@[simp] theorem State.latchRow_trace (s : State) (rb : Vector Byte 8) : (s.latchRow rb).trace = s.trace := rfl
@[simp] theorem State.latchRow_enabled (s : State) (rb : Vector Byte 8) : (s.latchRow rb).enabled = s.enabled := rfl
@[simp] theorem State.latchRow_input (s : State) (rb : Vector Byte 8) : (s.latchRow rb).input = s.input := rfl
@[simp] theorem State.latchRow_draws (s : State) (rb : Vector Byte 8) : (s.latchRow rb).draws = s.draws := rfl
@[simp] theorem State.latchRow_scratch (s : State) (rb : Vector Byte 8) : (s.latchRow rb).scratch = { s.scratch with rb := rb } := rfl

/-! ## State.latchLanes -/

@[simp] theorem State.latchLanes_build (s : State) (on : Vector Bool 16) : (s.latchLanes on).build = s.build := rfl
@[simp] theorem State.latchLanes_fb (s : State) (on : Vector Bool 16) : (s.latchLanes on).fb = s.fb := rfl
@[simp] theorem State.latchLanes_row (s : State) (on : Vector Bool 16) : (s.latchLanes on).row = s.row := rfl
@[simp] theorem State.latchLanes_level (s : State) (on : Vector Bool 16) : (s.latchLanes on).level = s.level := rfl
@[simp] theorem State.latchLanes_rowOffset (s : State) (on : Vector Bool 16) : (s.latchLanes on).rowOffset = s.rowOffset := rfl
@[simp] theorem State.latchLanes_phase (s : State) (on : Vector Bool 16) : (s.latchLanes on).phase = s.phase := rfl
@[simp] theorem State.latchLanes_step (s : State) (on : Vector Bool 16) : (s.latchLanes on).step = s.step := rfl
@[simp] theorem State.latchLanes_writeOffset (s : State) (on : Vector Bool 16) : (s.latchLanes on).writeOffset = s.writeOffset := rfl
@[simp] theorem State.latchLanes_tseq (s : State) (on : Vector Bool 16) : (s.latchLanes on).tseq = s.tseq := rfl
@[simp] theorem State.latchLanes_ob0 (s : State) (on : Vector Bool 16) : (s.latchLanes on).ob0 = s.ob0 := rfl
@[simp] theorem State.latchLanes_ob1 (s : State) (on : Vector Bool 16) : (s.latchLanes on).ob1 = s.ob1 := rfl
@[simp] theorem State.latchLanes_strobe (s : State) (on : Vector Bool 16) : (s.latchLanes on).strobe = s.strobe := rfl
@[simp] theorem State.latchLanes_ports (s : State) (on : Vector Bool 16) : (s.latchLanes on).ports = s.ports := rfl
@[simp] theorem State.latchLanes_trace (s : State) (on : Vector Bool 16) : (s.latchLanes on).trace = s.trace := rfl
@[simp] theorem State.latchLanes_enabled (s : State) (on : Vector Bool 16) : (s.latchLanes on).enabled = s.enabled := rfl
@[simp] theorem State.latchLanes_input (s : State) (on : Vector Bool 16) : (s.latchLanes on).input = s.input := rfl
@[simp] theorem State.latchLanes_draws (s : State) (on : Vector Bool 16) : (s.latchLanes on).draws = s.draws := rfl
@[simp] theorem State.latchLanes_scratch (s : State) (on : Vector Bool 16) : (s.latchLanes on).scratch = { s.scratch with on := on } := rfl

/-! ## State.packLanes -/

@[simp] theorem State.packLanes_build (s : State) : (s.packLanes).build = s.build := rfl
@[simp] theorem State.packLanes_fb (s : State) : (s.packLanes).fb = s.fb := rfl
@[simp] theorem State.packLanes_row (s : State) : (s.packLanes).row = s.row := rfl
@[simp] theorem State.packLanes_level (s : State) : (s.packLanes).level = s.level := rfl
@[simp] theorem State.packLanes_rowOffset (s : State) : (s.packLanes).rowOffset = s.rowOffset := rfl
@[simp] theorem State.packLanes_phase (s : State) : (s.packLanes).phase = s.phase := rfl
@[simp] theorem State.packLanes_step (s : State) : (s.packLanes).step = s.step := rfl
@[simp] theorem State.packLanes_writeOffset (s : State) : (s.packLanes).writeOffset = s.writeOffset := rfl
@[simp] theorem State.packLanes_tseq (s : State) : (s.packLanes).tseq = s.tseq := rfl
@[simp] theorem State.packLanes_ob0 (s : State) : (s.packLanes).ob0 = packLow s.scratch.on := rfl
@[simp] theorem State.packLanes_ob1 (s : State) : (s.packLanes).ob1 = packHigh s.scratch.on := rfl
@[simp] theorem State.packLanes_strobe (s : State) : (s.packLanes).strobe = s.strobe := rfl
@[simp] theorem State.packLanes_ports (s : State) : (s.packLanes).ports = s.ports := rfl
@[simp] theorem State.packLanes_trace (s : State) : (s.packLanes).trace = s.trace := rfl
@[simp] theorem State.packLanes_enabled (s : State) : (s.packLanes).enabled = s.enabled := rfl
@[simp] theorem State.packLanes_input (s : State) : (s.packLanes).input = s.input := rfl
@[simp] theorem State.packLanes_draws (s : State) : (s.packLanes).draws = s.draws := rfl
@[simp] theorem State.packLanes_scratch (s : State) : (s.packLanes).scratch = s.scratch := rfl

/-! ## State.stepTo -/

@[simp] theorem State.stepTo_build (s : State) (k : Fin 6) : (s.stepTo k).build = s.build := rfl
@[simp] theorem State.stepTo_fb (s : State) (k : Fin 6) : (s.stepTo k).fb = s.fb := rfl
@[simp] theorem State.stepTo_row (s : State) (k : Fin 6) : (s.stepTo k).row = s.row := rfl
@[simp] theorem State.stepTo_level (s : State) (k : Fin 6) : (s.stepTo k).level = s.level := rfl
@[simp] theorem State.stepTo_rowOffset (s : State) (k : Fin 6) : (s.stepTo k).rowOffset = s.rowOffset := rfl
@[simp] theorem State.stepTo_phase (s : State) (k : Fin 6) : (s.stepTo k).phase = s.phase := rfl
@[simp] theorem State.stepTo_step (s : State) (k : Fin 6) : (s.stepTo k).step = k := rfl
@[simp] theorem State.stepTo_writeOffset (s : State) (k : Fin 6) : (s.stepTo k).writeOffset = s.writeOffset := rfl
@[simp] theorem State.stepTo_tseq (s : State) (k : Fin 6) : (s.stepTo k).tseq = s.tseq := rfl
@[simp] theorem State.stepTo_ob0 (s : State) (k : Fin 6) : (s.stepTo k).ob0 = s.ob0 := rfl
@[simp] theorem State.stepTo_ob1 (s : State) (k : Fin 6) : (s.stepTo k).ob1 = s.ob1 := rfl
@[simp] theorem State.stepTo_strobe (s : State) (k : Fin 6) : (s.stepTo k).strobe = s.strobe := rfl
@[simp] theorem State.stepTo_ports (s : State) (k : Fin 6) : (s.stepTo k).ports = s.ports := rfl
@[simp] theorem State.stepTo_trace (s : State) (k : Fin 6) : (s.stepTo k).trace = s.trace := rfl
@[simp] theorem State.stepTo_enabled (s : State) (k : Fin 6) : (s.stepTo k).enabled = s.enabled := rfl
@[simp] theorem State.stepTo_input (s : State) (k : Fin 6) : (s.stepTo k).input = s.input := rfl
@[simp] theorem State.stepTo_draws (s : State) (k : Fin 6) : (s.stepTo k).draws = s.draws := rfl
@[simp] theorem State.stepTo_scratch (s : State) (k : Fin 6) : (s.stepTo k).scratch = s.scratch := rfl

/-! ## State.enterCopying -/

@[simp] theorem State.enterCopying_build (s : State) : (s.enterCopying).build = s.build := rfl
@[simp] theorem State.enterCopying_fb (s : State) : (s.enterCopying).fb = s.fb := rfl
@[simp] theorem State.enterCopying_row (s : State) : (s.enterCopying).row = s.row := rfl
@[simp] theorem State.enterCopying_level (s : State) : (s.enterCopying).level = s.level := rfl
@[simp] theorem State.enterCopying_rowOffset (s : State) : (s.enterCopying).rowOffset = s.rowOffset := rfl
@[simp] theorem State.enterCopying_phase (s : State) : (s.enterCopying).phase = .copying := rfl
@[simp] theorem State.enterCopying_step (s : State) : (s.enterCopying).step = 0 := rfl
@[simp] theorem State.enterCopying_writeOffset (s : State) : (s.enterCopying).writeOffset = 0 := rfl
@[simp] theorem State.enterCopying_tseq (s : State) : (s.enterCopying).tseq = s.tseq := rfl
@[simp] theorem State.enterCopying_ob0 (s : State) : (s.enterCopying).ob0 = s.ob0 := rfl
@[simp] theorem State.enterCopying_ob1 (s : State) : (s.enterCopying).ob1 = s.ob1 := rfl
@[simp] theorem State.enterCopying_strobe (s : State) : (s.enterCopying).strobe = s.strobe := rfl
@[simp] theorem State.enterCopying_ports (s : State) : (s.enterCopying).ports = s.ports := rfl
@[simp] theorem State.enterCopying_trace (s : State) : (s.enterCopying).trace = s.trace ++ [.ind] := rfl
@[simp] theorem State.enterCopying_enabled (s : State) : (s.enterCopying).enabled = s.enabled := rfl
@[simp] theorem State.enterCopying_input (s : State) : (s.enterCopying).input = s.input := rfl
@[simp] theorem State.enterCopying_draws (s : State) : (s.enterCopying).draws = s.draws := rfl
@[simp] theorem State.enterCopying_scratch (s : State) : (s.enterCopying).scratch = s.scratch := rfl

end Sys2Proof.Machine
end

