-- ==== Sys2Proof/Laws/Ops.lean ====
section
/-! SUPPORT. What each shared operation can do, said once: if it answers, then how. -/

namespace Sys2Proof.Machine

/-! ## Outcomes -/

@[simp] theorem andThen_next (s : State) (k) : andThen (.next s) k = k s := rfl
@[simp] theorem andThen_fault (f : Fault) (k) : andThen (.fault f) k = .fault f := rfl
@[simp] theorem andThen_refused (r : Refusal) (k) : andThen (.refused r) k = .refused r := rfl
@[simp] theorem orFault_ok {α : Type} (a : α) (k) : orFault (.ok a) k = k a := rfl
@[simp] theorem orFault_error {α : Type} (f : Fault) (k : α → _) : orFault (.error f) k = .fault f := rfl

theorem andThen_eq_next {o k} {t : State} (h : andThen o k = .next t) : ∃ s, o = .next s ∧ k s = .next t := by
  cases o with
  | next s => exact ⟨s, rfl, h⟩
  | fault f => simp at h
  | refused r => simp at h

theorem orFault_eq_next {α : Type} {x : Except Fault α} {k} {t : State} (h : orFault x k = .next t) :
    ∃ a, x = .ok a ∧ k a = .next t := by
  cases x with
  | ok a => exact ⟨a, rfl, h⟩
  | error f => simp at h

/-! ## Memory accesses -/

theorem memRead_inside (s : State) {o : Nat} (h : o < s.build.capacity) : s.memRead o = .ok (s.fb.byteAt o) := if_pos h

theorem memRead_outside (s : State) {o : Nat} (h : ¬ o < s.build.capacity) :
    s.memRead o = .error (.addressOutOfRange o) := if_neg h

theorem memWrite_inside (s : State) {o : Nat} (h : o < s.build.capacity) (v : Byte) :
    s.memWrite o v = .ok { s with fb := s.fb.setByte o v } := if_pos h

theorem memWrite_outside (s : State) {o : Nat} (h : ¬ o < s.build.capacity) (v : Byte) :
    s.memWrite o v = .error (.addressOutOfRange o) := if_neg h

/-- A copy inside the buffer stores one byte and moves `writeOffset` by one. -/
theorem copyByte_inside (s : State) (h : s.writeOffset < s.build.capacity) (d : Byte) :
    s.copyByte d = .ok { s with fb := s.fb.setByte s.writeOffset d, writeOffset := s.writeOffset + 1 } := by
  simp only [State.copyByte, State.copyAddr, memWrite_inside s h, Except.map]

theorem copyByte_eq_ok {s t : State} {d : Byte} (h : s.copyByte d = .ok t) :
    s.writeOffset < s.build.capacity ∧
      t = { s with fb := s.fb.setByte s.writeOffset d, writeOffset := s.writeOffset + 1 } := by
  by_cases hw : s.writeOffset < s.build.capacity
  · rw [copyByte_inside s hw] at h
    exact ⟨hw, (Except.ok.inj h).symm⟩
  · rw [State.copyByte, State.copyAddr, memWrite_outside s hw] at h
    simp [Except.map] at h

/-- The row-block at an offset of a memory. -/
def Memory.rowAt (m : Memory) (o : Nat) : Vector Byte 8 :=
  #v[m.byteAt (o + 0), m.byteAt (o + 1), m.byteAt (o + 2), m.byteAt (o + 3),
     m.byteAt (o + 4), m.byteAt (o + 5), m.byteAt (o + 6), m.byteAt (o + 7)]

theorem Memory.rowAt_getElem (m : Memory) (o k : Nat) (h : k < 8) : (Memory.rowAt m o)[k] = Memory.byteAt m (o + k) := by
  match k, h with
  | 0, _ | 1, _ | 2, _ | 3, _ | 4, _ | 5, _ | 6, _ | 7, _ => rfl

/-- A fetch inside the buffer reads the 8 bytes at `rowOffset`. -/
theorem readRow_inside (s : State) (h : s.rowOffset + 7 < s.build.capacity) :
    s.readRow = .ok (s.fb.rowAt s.rowOffset) := by
  have r : ∀ k, k ≤ 7 → s.memRead (s.fetchAddr k) = .ok (s.fb.byteAt (s.rowOffset + k)) := fun k hk =>
    memRead_inside s (show s.rowOffset + k < s.build.capacity by omega)
  simp only [State.readRow, r 0 (by decide), r 1 (by decide), r 2 (by decide), r 3 (by decide), r 4 (by decide),
    r 5 (by decide), r 6 (by decide), r 7 (by decide)]
  rfl

theorem readRow_eq_ok {s : State} {rb : Vector Byte 8} (h : s.readRow = .ok rb) :
    s.rowOffset + 7 < s.build.capacity ∧ rb = s.fb.rowAt s.rowOffset := by
  by_cases hr : s.rowOffset + 7 < s.build.capacity
  · rw [readRow_inside s hr] at h
    exact ⟨hr, (Except.ok.inj h).symm⟩
  · have h7 : s.memRead (s.fetchAddr 7) = .error (.addressOutOfRange (s.fetchAddr 7)) := memRead_outside s hr
    exfalso
    have step : ∀ {α β : Type} (x : Except Fault α) (f : α → Except Fault β) (b : β),
        x.bind f = .ok b → ∃ a, f a = .ok b := by
      intro α β x f b e
      cases x with
      | ok a => exact ⟨a, e⟩
      | error g => cases e
    obtain ⟨_, h⟩ := step _ _ _ h
    obtain ⟨_, h⟩ := step _ _ _ h
    obtain ⟨_, h⟩ := step _ _ _ h
    obtain ⟨_, h⟩ := step _ _ _ h
    obtain ⟨_, h⟩ := step _ _ _ h
    obtain ⟨_, h⟩ := step _ _ _ h
    obtain ⟨_, h⟩ := step _ _ _ h
    rw [h7] at h
    cases h

/-! ## Sub-steps that can stop -/

theorem fetchRow_inside (s : State) (h : s.rowOffset + 7 < s.build.capacity) :
    fetchRow s = .next (s.latchRow (s.fb.rowAt s.rowOffset)) := by
  simp only [fetchRow, readRow_inside s h, orFault_ok]

theorem fetchRow_eq_next {s t : State} (h : fetchRow s = .next t) :
    s.rowOffset + 7 < s.build.capacity ∧ t = s.latchRow (s.fb.rowAt s.rowOffset) := by
  obtain ⟨rb, h1, h2⟩ := orFault_eq_next h
  obtain ⟨h3, rfl⟩ := readRow_eq_ok h1
  exact ⟨h3, (Host.Outcome.next.inj h2).symm⟩

theorem thresholdRow_inside (s : State) (h : s.level < Config.levels1) :
    thresholdRow s = .next (s.latchLanes (laneDecisions s.scratch.rb s.level)) := if_pos h

theorem thresholdRow_eq_next {s t : State} (h : thresholdRow s = .next t) :
    s.level < Config.levels1 ∧ t = s.latchLanes (laneDecisions s.scratch.rb s.level) := by
  unfold thresholdRow at h
  split at h
  · exact ⟨‹_›, (Host.Outcome.next.inj h).symm⟩
  · cases h

theorem selectPorts_inside (s : State) (h : s.row < s.build.rows) :
    selectPorts s = .next (s.writePorts (portEncode s.build (selectRow s.build s.row))) := if_pos h

theorem selectPorts_eq_next {s t : State} (h : selectPorts s = .next t) :
    s.row < s.build.rows ∧ t = s.writePorts (portEncode s.build (selectRow s.build s.row)) := by
  unfold selectPorts at h
  split at h
  · exact ⟨‹_›, (Host.Outcome.next.inj h).symm⟩
  · cases h

/-! ## The cursor -/

/-- The advance in its three cases (43_refresh.md R152). -/
theorem advanceCursor_cases (s : State) :
    (s.level + 1 < Config.levels1 ∧ s.advanceCursor = { s with level := s.level + 1 }) ∨
    (Config.levels1 ≤ s.level + 1 ∧ s.row + 1 < s.build.rows ∧
      s.advanceCursor = { s with level := 0, row := s.row + 1, rowOffset := s.rowOffset + Config.bytesPerRow }) ∨
    (Config.levels1 ≤ s.level + 1 ∧ s.build.rows ≤ s.row + 1 ∧
      s.advanceCursor = { s with level := 0, row := 0, rowOffset := 0 }) := by
  by_cases h1 : s.level + 1 < Config.levels1
  · exact .inl ⟨h1, if_neg (Nat.not_le.2 h1)⟩
  · refine .inr ?_
    by_cases h2 : s.row + 1 < s.build.rows
    · refine .inl ⟨Nat.le_of_not_lt h1, h2, ?_⟩
      exact (if_pos (Nat.le_of_not_lt h1)).trans (if_neg (Nat.not_le.2 h2))
    · refine .inr ⟨Nat.le_of_not_lt h1, Nat.le_of_not_lt h2, ?_⟩
      exact (if_pos (Nat.le_of_not_lt h1)).trans (if_pos (Nat.le_of_not_lt h2))

/-- The advance touches the cursor only. -/
theorem advanceCursor_frame (s : State) :
    s.advanceCursor = { s with level := s.advanceCursor.level, row := s.advanceCursor.row,
                               rowOffset := s.advanceCursor.rowOffset } := by
  obtain ⟨-, h⟩ | ⟨-, -, h⟩ | ⟨-, -, h⟩ := advanceCursor_cases s <;> rw [h]

@[simp] theorem advanceCursor_build (s : State) : s.advanceCursor.build = s.build := by rw [advanceCursor_frame]

/-- The cursor after an advance, as functions of the old one. -/
def nextLevel (level : Nat) : Nat := if level + 1 < Config.levels1 then level + 1 else 0

@[inherit_doc nextLevel] def nextRow (rows row level : Nat) : Nat :=
  if level + 1 < Config.levels1 then row else if row + 1 < rows then row + 1 else 0

theorem advanceCursor_level (s : State) : s.advanceCursor.level = nextLevel s.level := by
  obtain ⟨h1, h⟩ | ⟨h1, h2, h⟩ | ⟨h1, h2, h⟩ := advanceCursor_cases s <;> rw [h] <;> simp only [nextLevel]
  · exact (if_pos h1).symm
  · exact (if_neg (Nat.not_lt.2 h1)).symm
  · exact (if_neg (Nat.not_lt.2 h1)).symm

theorem advanceCursor_row (s : State) : s.advanceCursor.row = nextRow s.build.rows s.row s.level := by
  obtain ⟨h1, h⟩ | ⟨h1, h2, h⟩ | ⟨h1, h2, h⟩ := advanceCursor_cases s <;> rw [h] <;> simp only [nextRow]
  · exact (if_pos h1).symm
  · exact ((if_neg (Nat.not_lt.2 h1)).trans (if_pos h2)).symm
  · exact ((if_neg (Nat.not_lt.2 h1)).trans (if_neg (Nat.not_lt.2 h2))).symm

theorem nextLevel_lt (l : Nat) : nextLevel l < Config.levels1 := by
  unfold nextLevel
  split
  · assumption
  · decide

theorem nextRow_lt {rows r : Nat} (l : Nat) (h : r < rows) : nextRow rows r l < rows := by
  unfold nextRow
  split
  · exact h
  · split
    · assumption
    · omega

theorem advanceCursor_rowOffset (s : State) (h : s.rowOffset = s.row * Config.bytesPerRow) :
    s.advanceCursor.rowOffset = s.advanceCursor.row * Config.bytesPerRow := by
  obtain ⟨h1, e⟩ | ⟨h1, h2, e⟩ | ⟨h1, h2, e⟩ := advanceCursor_cases s <;> rw [e] <;> simp only
  · exact h
  · rw [h, Nat.add_mul, Nat.one_mul]
  · rw [Nat.zero_mul]

/-- The row-block of a row inside the grid lies inside the buffer. -/
theorem rowBlock_inside {b : Build} {r o : Nat} (hr : r < b.rows) (ho : o = r * Config.bytesPerRow) :
    o + 7 < b.capacity := by
  simp at *
  omega

/-! ## Accepting events -/

theorem afterReset_enabled {s : State} (h : s.enabled = true) (k) : afterReset s k = k := if_pos h

theorem afterReset_disabled {s : State} (h : s.enabled = false) (k) : afterReset s k = .refused .beforeReset := by
  simp [afterReset, h]

theorem acceptRx_selected {s : State} {i : Instr} (he : s.enabled = true) (hi : s.tseq = .idle)
    (hs : i.selectedIn s.mode = true) (n : String) (k) : acceptRx s i n k = k := by
  simp [acceptRx, afterReset, he, hi, hs]

theorem acceptRx_held {s : State} (i : Instr) (he : s.enabled = true) (hi : s.tseq ≠ .idle) (n : String) (k) :
    acceptRx s i n k = .next s := by
  simp [acceptRx, afterReset, he, hi]

/-- A loader operation that answers a next state was held or was selected. -/
theorem acceptRx_eq_next {s t : State} {i : Instr} {n : String} {k} (h : acceptRx s i n k = .next t) :
    s.enabled = true ∧ ((s.tseq ≠ .idle ∧ t = s) ∨ (s.tseq = .idle ∧ i.selectedIn s.mode = true ∧ k = .next t)) := by
  unfold acceptRx afterReset at h
  split at h
  · refine ⟨‹_›, ?_⟩
    split at h
    · exact .inl ⟨‹_›, (Host.Outcome.next.inj h).symm⟩
    · rename_i hi
      split at h
      · exact .inr ⟨not_not.1 hi, ‹_›, h⟩
      · split at h <;> cases h
  · cases h

/-! ## Taking an event -/

@[simp] theorem takeEvent_nil (b : Bool) : takeEvent b [] = none := rfl

theorem takeEvent_free {b : Bool} {w : EvWord} (h : (b && isRxWord w) = false) (ws : List EvWord) :
    takeEvent b (w :: ws) = some (w, ws) := by
  simp [takeEvent, h]

theorem takeEvent_held {b : Bool} {w : EvWord} (h : (b && isRxWord w) = true) (ws : List EvWord) :
    takeEvent b (w :: ws) = (takeEvent b ws).map fun p => (p.1, w :: p.2) := by
  simp [takeEvent, h]

/-- What is taken is offered, is not held, and the rest is what was offered less it. -/
theorem takeEvent_eq_some {b : Bool} {ws : List EvWord} {w : EvWord} {rest : List EvWord}
    (h : takeEvent b ws = some (w, rest)) :
    (b && isRxWord w) = false ∧ ∃ held, ws = held ++ w :: rest.drop held.length ∧ rest = held ++ rest.drop held.length ∧
      ∀ v ∈ held, (b && isRxWord v) = true := by
  induction ws generalizing rest with
  | nil => simp at h
  | cons v ws ih =>
    by_cases hv : (b && isRxWord v) = true
    · rw [takeEvent_held hv, Option.map_eq_some_iff] at h
      obtain ⟨⟨w', r⟩, h1, h2⟩ := h
      obtain ⟨rfl, rfl⟩ := Prod.mk.inj h2
      obtain ⟨h3, held, h4, h5, h6⟩ := ih h1
      refine ⟨h3, v :: held, ?_, ?_, ?_⟩
      · simpa using h4
      · simpa using h5
      · intro x hx
        rcases List.mem_cons.1 hx with rfl | hx
        · exact hv
        · exact h6 x hx
    · have hv' : (b && isRxWord v) = false := by simpa using hv
      rw [takeEvent_free hv'] at h
      obtain ⟨rfl, rfl⟩ := Prod.mk.inj (Option.some.inj h)
      exact ⟨hv', [], by simp, by simp, by simp⟩

end Sys2Proof.Machine
end

