-- ==== Sys2Proof/Laws/Decode.lean ====
section
/-! SUPPORT. The laws of the event words and of the choice of an operation (30_encoding.md R90 to R92). -/

namespace Sys2Proof

/-- The upper field of two concatenated fields. -/
theorem upperField_append {n m : Nat} (a : BitVec n) (b : BitVec m) : (a ++ b).extractLsb' m n = a := by
  refine BitVec.eq_of_getLsbD_eq fun i hi => ?_
  simp [BitVec.getLsbD_append, hi]

/-- The lower field of two concatenated fields. -/
theorem lowerField_append {n m : Nat} (a : BitVec n) (b : BitVec m) : (a ++ b).extractLsb' 0 m = b := by
  refine BitVec.eq_of_getLsbD_eq fun i hi => ?_
  simp [BitVec.getLsbD_append, hi]

theorem decodeEvent_encodeEvent (e : Event) : decodeEvent (encodeEvent e) = .ok e := by
  have rx : ∀ d : Byte, decodeEvent ((0b10 : BitVec 2) ++ d) = .ok (.rx d) := by decide
  cases e with
  | reset => decide
  | tick => decide
  | rx d => exact rx d
  | txdone => decide

/-- A word that decodes is the word of its event. -/
theorem encodeEvent_of_decodeEvent {w : EvWord} {e : Event} (h : decodeEvent w = .ok e) : encodeEvent e = w := by
  have key : ∀ w : EvWord, (match decodeEvent w with | .ok e => encodeEvent e | .error _ => w) = w := by decide
  have := key w
  rwa [h] at this

/-- A word that names no event is a reserved one. -/
theorem decodeEvent_error {w : EvWord} {e : DecodeError} (h : decodeEvent w = .error e) :
    e = .reservedWord w ∧ evKind w ≠ 2 ∧ evByte w ≠ 0 := by
  unfold decodeEvent at h
  split at h
  · cases h
  · split at h
    · exact ⟨(Except.error.inj h).symm, ‹_›, ‹_›⟩
    · split at h
      · cases h
      · split at h <;> cases h

theorem isRxWord_encodeEvent (e : Event) : isRxWord (encodeEvent e) = true ↔ ∃ d, e = .rx d := by
  have rx : ∀ d : Byte, isRxWord ((0b10 : BitVec 2) ++ d) = true := by decide
  cases e with
  | reset => simp [show isRxWord (encodeEvent .reset) = false by decide]
  | tick => simp [show isRxWord (encodeEvent .tick) = false by decide]
  | rx d => exact ⟨fun _ => ⟨d, rfl⟩, fun _ => rx d⟩
  | txdone => simp [show isRxWord (encodeEvent .txdone) = false by decide]

end Sys2Proof

namespace Sys2Proof.Machine

/-- What a step can do: nothing, refuse a reserved word, or perform the operation of the event it takes. -/
theorem step_cases (s : State) :
    (s.nextEvent = none ∧ step s = .next s) ∨
    (∃ w rest, s.nextEvent = some (w, rest) ∧ decodeEvent w = .error (.reservedWord w) ∧
      step s = .refused (.reservedWord w)) ∨
    (∃ e rest, s.nextEvent = some (encodeEvent e, rest) ∧
      step s = exec (operationOf s.mode e) { s with input := rest }) := by
  cases hn : s.nextEvent with
  | none => exact .inl ⟨rfl, by simp [step, hn]⟩
  | some p =>
    obtain ⟨w, rest⟩ := p
    cases hd : decodeEvent w with
    | error x =>
      obtain ⟨rfl, -, -⟩ := decodeEvent_error hd
      exact .inr (.inl ⟨w, rest, rfl, hd, by simp [step, hn, decode, hd, Except.map]⟩)
    | ok e =>
      refine .inr (.inr ⟨e, rest, by rw [encodeEvent_of_decodeEvent hd], ?_⟩)
      simp [step, hn, decode, hd, Except.map]

end Sys2Proof.Machine
end

