-- ==== Sys2Proof/Laws/Lanes.lean ====
section
/-! SUPPORT. The pixel datapath lane by lane: nibbles, decisions, packing. -/

namespace Sys2Proof.Machine

theorem pixPack_pixHi_pixLo : ∀ b : Byte, pixPack (pixHi b) (pixLo b) = b := by decide

theorem pixLo_pixPack : ∀ hi lo : Pixel, pixLo (pixPack hi lo) = lo := by decide

theorem pixHi_pixPack : ∀ hi lo : Pixel, pixHi (pixPack hi lo) = hi := by decide

theorem pixLo_toNat (b : Byte) : (pixLo b).toNat = b.toNat % 16 := by
  simp [pixLo]

theorem pixHi_toNat (b : Byte) : (pixHi b).toNat = b.toNat / 16 := by
  have := b.isLt
  simp [pixHi, Nat.shiftRight_eq_div_pow]
  omega

/-- Lane `c` decides on the nibble of column `c` (43_refresh.md R168). -/
theorem laneDecisions_getElem (rb : Vector Byte 8) (l c : Nat) (h : c < 16) :
    (laneDecisions rb l)[c] = laneGt (pixelOf (rb[c / 2]'(by omega)) c) l := by
  interval_cases c <;> rfl

/-- Bit `i` of eight concatenated bits, the first of them on top. -/
theorem eightBits_getLsbD : ∀ b7 b6 b5 b4 b3 b2 b1 b0 : Bool, ∀ i < 8,
    (onBit b7 ++ onBit b6 ++ onBit b5 ++ onBit b4 ++ onBit b3 ++ onBit b2 ++ onBit b1 ++ onBit b0 : Byte).getLsbD i
      = [b0, b1, b2, b3, b4, b5, b6, b7].getD i false := by
  decide

theorem packLow_getLsbD (on : Vector Bool 16) (i : Nat) (h : i < 8) : (packLow on).getLsbD i = on[i] := by
  refine (eightBits_getLsbD _ _ _ _ _ _ _ _ i h).trans ?_
  match i, h with
  | 0, _ | 1, _ | 2, _ | 3, _ | 4, _ | 5, _ | 6, _ | 7, _ => rfl

theorem packHigh_getLsbD (on : Vector Bool 16) (i : Nat) (h : i < 8) : (packHigh on).getLsbD i = on[8 + i] := by
  refine (eightBits_getLsbD _ _ _ _ _ _ _ _ i h).trans ?_
  match i, h with
  | 0, _ | 1, _ | 2, _ | 3, _ | 4, _ | 5, _ | 6, _ | 7, _ => rfl

/-- Output bit `c` is decision `c` (30_encoding.md R86). -/
theorem outputBit_pack (on : Vector Bool 16) (c : Nat) (h : c < 16) :
    outputBit (packLow on) (packHigh on) c = on[c] := by
  unfold outputBit
  split
  · exact packLow_getLsbD on c ‹_›
  · rw [packHigh_getLsbD on (c - 8) (by omega)]
    congr 1
    omega

/-- Two bytes with the same sixteen output bits are the same two bytes. -/
theorem outputBit_ext {a b a' b' : Byte} (h : ∀ c < 16, outputBit a b c = outputBit a' b' c) : a = a' ∧ b = b' := by
  constructor
  · refine BitVec.eq_of_getLsbD_eq fun i hi => ?_
    have := h i (by omega)
    simpa [outputBit, hi] using this
  · refine BitVec.eq_of_getLsbD_eq fun i hi => ?_
    have := h (8 + i) (by omega)
    simpa [outputBit] using this

end Sys2Proof.Machine
end

