-- ==== Sys2Proof/Laws/Exec.lean ====
section
/-! SUPPORT. One spec lemma per event: its next state where it completes, and that it completes nowhere else. -/

namespace Sys2Proof.Machine

/-- The state after a tick is taken: the advanced cursor, the sixteen decisions of its row at its level, the first
byte handed over. -/
def State.tickResult (s : State) : State :=
  let a := s.advanceCursor
  let on := laneDecisions (a.fb.rowAt a.rowOffset) a.level
  { a with
    ob0 := packLow on
    ob1 := packHigh on
    tseq := .wait0
    trace := a.trace ++ [.tx (packLow on)]
    scratch := Scratch.empty }

theorem execTick_inside {s : State} (he : s.enabled = true) (hi : s.tseq = .idle)
    (hr : s.advanceCursor.rowOffset + 7 < s.build.capacity) : execTick s = .next s.tickResult := by
  have hl : s.advanceCursor.level < Config.levels1 := by rw [advanceCursor_level]; exact nextLevel_lt _
  unfold execTick
  rw [afterReset_enabled he, if_neg (not_not.2 hi), fetchRow_inside _ (by rwa [advanceCursor_build]), andThen_next,
    thresholdRow_inside _ (by simpa using hl), andThen_next]
  simp only [State.tickResult]
  generalize s.advanceCursor = a
  rfl

theorem execTick_eq_next {s t : State} (h : execTick s = .next t) :
    s.enabled = true ∧ s.tseq = .idle ∧ s.advanceCursor.rowOffset + 7 < s.build.capacity ∧ t = s.tickResult := by
  by_cases he : s.enabled = true
  · by_cases hi : s.tseq = .idle
    · have h' := h
      unfold execTick at h'
      rw [afterReset_enabled he, if_neg (not_not.2 hi)] at h'
      obtain ⟨s₂, h₂, -⟩ := andThen_eq_next h'
      obtain ⟨hr, -⟩ := fetchRow_eq_next h₂
      rw [advanceCursor_build] at hr
      rw [execTick_inside he hi hr] at h
      exact ⟨he, hi, hr, (Host.Outcome.next.inj h).symm⟩
    · simp [execTick, afterReset, he, hi] at h
  · simp [execTick, afterReset, he] at h

theorem execTxdoneW0_waiting {s : State} (he : s.enabled = true) (hw : s.tseq = .wait0) :
    execTxdoneW0 s = .next (s.transmit s.ob1 .wait1) := by
  simp [execTxdoneW0, afterReset, he, hw]

theorem execTxdoneW0_eq_next {s t : State} (h : execTxdoneW0 s = .next t) :
    s.enabled = true ∧ s.tseq = .wait0 ∧ t = s.transmit s.ob1 .wait1 := by
  unfold execTxdoneW0 afterReset at h
  split at h
  · split at h
    · cases h
    · exact ⟨‹_›, ‹_›, (Host.Outcome.next.inj h).symm⟩
    · cases h
  · cases h

/-- The state after a tick's last step. -/
def State.latchResult (s : State) : State :=
  let p := portEncode s.build (selectRow s.build s.row)
  { s with strobe := false, ports := p, tseq := .idle, trace := s.trace ++ [.stb true, .sel p, .stb false] }

theorem execTxdoneW1_waiting {s : State} (he : s.enabled = true) (hw : s.tseq = .wait1) (hr : s.row < s.build.rows) :
    execTxdoneW1 s = .next s.latchResult := by
  unfold execTxdoneW1
  rw [afterReset_enabled he, hw]
  simp only
  rw [selectPorts_inside (s.driveStrobe true) (by simpa using hr), andThen_next]
  simp [State.latchResult, State.driveStrobe, State.writePorts, State.emit]

theorem execTxdoneW1_eq_next {s t : State} (h : execTxdoneW1 s = .next t) :
    s.enabled = true ∧ s.tseq = .wait1 ∧ s.row < s.build.rows ∧ t = s.latchResult := by
  have h' := h
  unfold execTxdoneW1 afterReset at h
  split at h
  · split at h
    · cases h
    · cases h
    · obtain ⟨s₂, h₂, -⟩ := andThen_eq_next h
      obtain ⟨hr, -⟩ := selectPorts_eq_next h₂
      have hr' : s.row < s.build.rows := by simpa using hr
      rw [execTxdoneW1_waiting ‹_› ‹_› hr'] at h'
      exact ⟨‹_›, ‹_›, hr', (Host.Outcome.next.inj h').symm⟩
  · cases h

/-- The state after RESET. -/
theorem execReset_result (s : State) :
    execReset s = .next
      { State.resetOf s.build with ports := s.build.freePorts s.draws, draws := s.draws + 1, input := s.input } :=
  rfl

/-- The state after a payload byte. -/
def State.copyResult (s : State) (d : Byte) : State :=
  { s with fb := s.fb.setByte s.writeOffset d, writeOffset := s.writeOffset + 1 }

theorem execRxCopy_accepted {s : State} {d : Byte} (he : s.enabled = true) (hi : s.tseq = .idle)
    (hp : s.phase = .copying) (hw : s.writeOffset + 1 < s.build.capacity) :
    execRxCopy d s = .next (s.copyResult d) := by
  unfold execRxCopy
  rw [acceptRx_selected he hi (by simp [Instr.selectedIn, State.mode, hi, hp] at *; exact hw),
    copyByte_inside s (by omega), orFault_ok]
  rfl

theorem execRxCopyLast_accepted {s : State} {d : Byte} (he : s.enabled = true) (hi : s.tseq = .idle)
    (hp : s.phase = .copying) (hw : s.writeOffset + 1 = s.build.capacity) :
    execRxCopyLast d s = .next { s.copyResult d with phase := .seeking } := by
  unfold execRxCopyLast
  rw [acceptRx_selected he hi (by simp [Instr.selectedIn, State.mode, hi, hp] at *; exact hw),
    copyByte_inside s (by omega), orFault_ok]
  rfl

/-- What an accepted received byte does, in the six cases of 42_ingestion.md R143. -/
theorem receive_cases {s : State} (d : Byte) (he : s.enabled = true) (hi : s.tseq = .idle)
    (hw : s.phase = .copying → s.writeOffset < s.build.capacity) :
    (s.phase = .seeking ∧ d = Config.markerByte s.step ∧ s.step.val < 5 ∧
      exec (operationOf s.mode (.rx d)) s = .next (s.stepTo (s.step + 1))) ∨
    (s.phase = .seeking ∧ d = Config.markerByte s.step ∧ s.step.val = 5 ∧
      exec (operationOf s.mode (.rx d)) s = .next s.enterCopying) ∨
    (s.phase = .seeking ∧ d ≠ Config.markerByte s.step ∧ (d = Config.markerByte 0 ∧ s.build.m0Restart = true) ∧
      exec (operationOf s.mode (.rx d)) s = .next (s.stepTo 1)) ∨
    (s.phase = .seeking ∧ d ≠ Config.markerByte s.step ∧ ¬ (d = Config.markerByte 0 ∧ s.build.m0Restart = true) ∧
      exec (operationOf s.mode (.rx d)) s = .next (s.stepTo 0)) ∨
    (s.phase = .copying ∧ s.writeOffset + 1 < s.build.capacity ∧
      exec (operationOf s.mode (.rx d)) s = .next (s.copyResult d)) ∨
    (s.phase = .copying ∧ s.writeOffset + 1 = s.build.capacity ∧
      exec (operationOf s.mode (.rx d)) s = .next { s.copyResult d with phase := .seeking }) := by
  cases hp : s.phase with
  | copying =>
    have hw := hw hp
    by_cases h : s.writeOffset + 1 < s.build.capacity
    · have e : operationOf s.mode (.rx d) = .rxCopy d := by
        simp only [operationOf, loaderOperation, State.mode, hp, if_pos h]
      rw [e]
      exact .inr (.inr (.inr (.inr (.inl ⟨rfl, h, execRxCopy_accepted he hi hp h⟩))))
    · have e : operationOf s.mode (.rx d) = .rxCopyLast d := by
        simp only [operationOf, loaderOperation, State.mode, hp, if_neg h]
      have h' : s.writeOffset + 1 = s.build.capacity := by omega
      rw [e]
      exact .inr (.inr (.inr (.inr (.inr ⟨rfl, h', execRxCopyLast_accepted he hi hp h'⟩))))
  | seeking =>
    by_cases h : d = Config.markerByte s.step
    · have e : operationOf s.mode (.rx d) = markerOperation s.step := by
        simp only [operationOf, loaderOperation, State.mode, hp, if_pos h]
      rw [e]
      have run : ∀ k : Fin 6, s.step = k → exec (markerOperation k) s
          = .next (if k.val < 5 then s.stepTo (k + 1) else s.enterCopying) := by
        intro k hk
        match k, hk with
        | 0, hk | 1, hk | 2, hk | 3, hk | 4, hk | 5, hk =>
          exact acceptRx_selected he hi (by simp [Instr.selectedIn, State.mode, hi, hp, hk]) _ _
      by_cases h5 : s.step.val < 5
      · exact .inl ⟨rfl, h, h5, by rw [run s.step rfl, if_pos h5]⟩
      · exact .inr (.inl ⟨rfl, h, by omega, by rw [run s.step rfl, if_neg h5]⟩)
    · by_cases h0 : d = Config.markerByte 0 ∧ s.build.m0Restart = true
      · have e : operationOf s.mode (.rx d) = .rxRestart := by
          simp only [operationOf, loaderOperation, State.mode, hp, if_neg h]
          exact if_pos h0
        have hs : 1 ≤ s.step.val := by
          rcases Nat.eq_zero_or_pos s.step.val with hz | hz
          · exact absurd (h0.1.trans (by rw [show s.step = 0 from Fin.ext hz])) h
          · exact hz
        have hm : Config.markerByte 0 ≠ Config.markerByte s.step := h0.1 ▸ h
        rw [e]
        refine .inr (.inr (.inl ⟨rfl, h, h0, acceptRx_selected he hi ?_ _ _⟩))
        simp [Instr.selectedIn, State.mode, hi, hp, hs, hm, h0.2]
      · have e : operationOf s.mode (.rx d) = .rxMiss d := by
          simp only [operationOf, loaderOperation, State.mode, hp, if_neg h]
          exact if_neg h0
        rw [e]
        refine .inr (.inr (.inr (.inl ⟨rfl, h, h0, acceptRx_selected he hi ?_ _ _⟩)))
        simp only [Instr.selectedIn, State.mode, hi, hp]
        simpa [h, imp_iff_not_or] using h0

/-- What an accepted event does. -/
theorem acceptEvent_eq_some {s t : State} {e : Event} (h : acceptEvent s e = some t) :
    s.admits e = true ∧ exec (operationOf s.mode e) s = .next t := by
  unfold acceptEvent at h
  split at h
  · refine ⟨‹_›, ?_⟩
    split at h <;> simp_all
  · cases h

theorem acceptEvent_of_next {s t : State} {e : Event} (ha : s.admits e = true)
    (h : exec (operationOf s.mode e) s = .next t) : acceptEvent s e = some t := by
  simp [acceptEvent, ha, h]

end Sys2Proof.Machine
end

