-- ==== Sys2Proof/Laws/Events.lean ====
section
/-! SUPPORT. What an accepted event does to the whole state, one lemma per event, and how runs compose. -/

namespace Sys2Proof.Machine

/-- A tick changes the cursor, the output bytes, `tseq`, the trace and the transients only. -/
theorem tickResult_frame (s : State) :
    s.tickResult =
      { s with row := s.tickResult.row, level := s.tickResult.level, rowOffset := s.tickResult.rowOffset,
               ob0 := s.tickResult.ob0, ob1 := s.tickResult.ob1, tseq := .wait0, trace := s.tickResult.trace,
               scratch := Scratch.empty } := by
  simp only [State.tickResult]
  rw [advanceCursor_frame]

theorem tickResult_row (s : State) : s.tickResult.row = nextRow s.build.rows s.row s.level := advanceCursor_row s

theorem tickResult_level (s : State) : s.tickResult.level = nextLevel s.level := advanceCursor_level s

theorem tickResult_trace (s : State) : s.tickResult.trace = s.trace ++ [.tx s.tickResult.ob0] := by
  simp only [State.tickResult]
  rw [advanceCursor_frame]

/-- The output bytes of a tick, lane by lane. -/
theorem tickResult_outputBit (s : State) (ho : s.rowOffset = s.row * Config.bytesPerRow) {c : Nat}
    (hc : c < Config.columns) :
    outputBit s.tickResult.ob0 s.tickResult.ob1 c
      = decide ((s.fb.pixel s.tickResult.row c).toNat > s.tickResult.level) := by
  have hfb : s.advanceCursor.fb = s.fb := by rw [advanceCursor_frame]
  have h := advanceCursor_rowOffset s ho
  simp only [State.tickResult]
  rw [outputBit_pack _ _ hc, laneDecisions_getElem _ _ _ hc, Memory.rowAt_getElem, hfb, h]
  rfl

/-- An accepted tick. -/
theorem acceptEvent_tick {s t : State} (h : acceptEvent s .tick = some t) :
    s.enabled = true ∧ s.tseq = .idle ∧ s.advanceCursor.rowOffset + 7 < s.build.capacity ∧ t = s.tickResult :=
  execTick_eq_next (acceptEvent_eq_some h).2

/-- An accepted completion. -/
theorem acceptEvent_txdone {s t : State} (h : acceptEvent s .txdone = some t) :
    s.enabled = true ∧
      ((s.tseq = .wait0 ∧ t = s.transmit s.ob1 .wait1) ∨
       (s.tseq = .wait1 ∧ s.row < s.build.rows ∧ t = s.latchResult)) := by
  have hx := (acceptEvent_eq_some h).2
  cases hw : s.tseq with
  | idle =>
    rw [show operationOf s.mode .txdone = .txdoneW0 by simp only [operationOf, State.mode, hw]] at hx
    have := (execTxdoneW0_eq_next hx).2.1
    simp [hw] at this
  | wait0 =>
    rw [show operationOf s.mode .txdone = .txdoneW0 by simp only [operationOf, State.mode, hw]] at hx
    obtain ⟨he, -, rfl⟩ := execTxdoneW0_eq_next hx
    exact ⟨he, .inl ⟨rfl, rfl⟩⟩
  | wait1 =>
    rw [show operationOf s.mode .txdone = .txdoneW1 by simp only [operationOf, State.mode, hw]] at hx
    obtain ⟨he, -, hr, rfl⟩ := execTxdoneW1_eq_next hx
    exact ⟨he, .inr ⟨rfl, hr, rfl⟩⟩

/-- A received byte is accepted only with the copy inside the buffer. -/
theorem acceptEvent_rx_inside {s t : State} {d : Byte} (h : acceptEvent s (.rx d) = some t)
    (hp : s.phase = .copying) : s.writeOffset < s.build.capacity := by
  obtain ⟨ha, hx⟩ := acceptEvent_eq_some h
  have hi : s.tseq = .idle := by simp [State.admits] at ha; exact ha.2
  by_contra hc
  rw [show operationOf s.mode (.rx d) = .rxCopyLast d by
    simp only [operationOf, loaderOperation, State.mode, hp]; exact if_neg (by omega)] at hx
  rcases acceptRx_eq_next hx with ⟨-, ⟨hb, -⟩ | ⟨-, hs, -⟩⟩
  · exact hb hi
  · simp only [Instr.selectedIn, State.mode, Bool.and_eq_true] at hs
    have := of_decide_eq_true hs.2
    omega

/-- An accepted received byte. -/
theorem acceptEvent_rx {s t : State} {d : Byte} (h : acceptEvent s (.rx d) = some t) :
    s.enabled = true ∧ s.tseq = .idle ∧
      ((s.phase = .seeking ∧ d = Config.markerByte s.step ∧ s.step.val < 5 ∧ t = s.stepTo (s.step + 1)) ∨
       (s.phase = .seeking ∧ d = Config.markerByte s.step ∧ s.step.val = 5 ∧ t = s.enterCopying) ∨
       (s.phase = .seeking ∧ d ≠ Config.markerByte s.step ∧ (d = Config.markerByte 0 ∧ s.build.m0Restart = true) ∧
         t = s.stepTo 1) ∨
       (s.phase = .seeking ∧ d ≠ Config.markerByte s.step ∧ ¬ (d = Config.markerByte 0 ∧ s.build.m0Restart = true) ∧
         t = s.stepTo 0) ∨
       (s.phase = .copying ∧ s.writeOffset + 1 < s.build.capacity ∧ t = s.copyResult d) ∨
       (s.phase = .copying ∧ s.writeOffset + 1 = s.build.capacity ∧ t = { s.copyResult d with phase := .seeking })) := by
  have hw := acceptEvent_rx_inside h
  obtain ⟨ha, hx⟩ := acceptEvent_eq_some h
  have ⟨he, hi⟩ : s.enabled = true ∧ s.tseq = .idle := by simpa [State.admits] using ha
  refine ⟨he, hi, ?_⟩
  rcases receive_cases d he hi hw with ⟨h1, h2, h3, h4⟩ | ⟨h1, h2, h3, h4⟩ | ⟨h1, h2, h3, h4⟩ | ⟨h1, h2, h3, h4⟩ |
      ⟨h1, h2, h4⟩ | ⟨h1, h2, h4⟩ <;>
    rw [h4] at hx <;> cases hx <;> simp_all

/-! ## Runs -/

theorem acceptAll_cons_eq_some {s t : State} {e : Event} {es : List Event} :
    acceptAll s (e :: es) = some t ↔ ∃ u, acceptEvent s e = some u ∧ acceptAll u es = some t :=
  Option.bind_eq_some_iff

theorem acceptAll_append (s : State) (xs ys : List Event) :
    acceptAll s (xs ++ ys) = (acceptAll s xs).bind (fun t => acceptAll t ys) := by
  induction xs generalizing s with
  | nil => rfl
  | cons e es ih =>
    simp only [List.cons_append, acceptAll]
    cases acceptEvent s e with
    | none => rfl
    | some u => simpa using ih u

/-- Whatever the bytes of a run are cut into, the run can be cut there too. -/
theorem receivedBytes_eq_append {es : List Event} {a b : List Byte} (h : receivedBytes es = a ++ b) :
    ∃ xs ys, es = xs ++ ys ∧ receivedBytes xs = a ∧ receivedBytes ys = b := by
  induction es generalizing a with
  | nil =>
    obtain ⟨rfl, rfl⟩ := List.append_eq_nil_iff.1 h.symm
    exact ⟨[], [], rfl, rfl, rfl⟩
  | cons e es ih =>
    by_cases q : ∃ d, e = .rx d
    · obtain ⟨d, rfl⟩ := q
      cases a with
      | nil => exact ⟨[], .rx d :: es, rfl, rfl, h⟩
      | cons x a =>
        obtain ⟨rfl, h'⟩ := List.cons.inj (show d :: receivedBytes es = x :: (a ++ b) from h)
        obtain ⟨xs, ys, rfl, rfl, rfl⟩ := ih h'
        exact ⟨.rx d :: xs, ys, rfl, rfl, rfl⟩
    · have hs : ∀ l, receivedBytes (e :: l) = receivedBytes l := fun l => by
        cases e <;> first | rfl | exact absurd ⟨_, rfl⟩ q
      rw [hs] at h
      obtain ⟨xs, ys, rfl, rfl, rfl⟩ := ih h
      exact ⟨e :: xs, ys, rfl, hs xs, rfl⟩

end Sys2Proof.Machine
end

