-- ==== Sys2Proof/Laws/PerInstr.lean ====
section
/-! SUPPORT. The family TableRow of LAWS.json: the word of every operation is one that its row of
spec/opcode_table.json allows (format, number of bits, fixed bits). -/

namespace Sys2Proof

/-- The three formats of spec/opcode_table.json. -/
inductive Format where
  | ev10
  | sub
  | fn
deriving DecidableEq, Repr

/-- A row of spec/opcode_table.json: its format, the bits of its pattern, and the fixed ones among them. -/
structure TableRow where
  format : Format
  bits   : Nat
  mask   : Nat
  fixed  : Nat
deriving DecidableEq, Repr

/-- The row of each operation. -/
def tableRow : Instr → TableRow
  | .reset => ⟨.ev10, 10, 0x3FF, 0x000⟩
  | .tick => ⟨.ev10, 10, 0x3FF, 0x100⟩
  | .txdoneW0 => ⟨.ev10, 10, 0x3FF, 0x300⟩
  | .txdoneW1 => ⟨.ev10, 10, 0x3FF, 0x300⟩
  | .rxM0 => ⟨.ev10, 10, 0x3FF, 0x2DE⟩
  | .rxM1 => ⟨.ev10, 10, 0x3FF, 0x2AD⟩
  | .rxM2 => ⟨.ev10, 10, 0x3FF, 0x2BE⟩
  | .rxM3 => ⟨.ev10, 10, 0x3FF, 0x2EF⟩
  | .rxM4 => ⟨.ev10, 10, 0x3FF, 0x201⟩
  | .rxM5 => ⟨.ev10, 10, 0x3FF, 0x202⟩
  | .rxRestart => ⟨.ev10, 10, 0x3FF, 0x2DE⟩
  | .rxMiss _ => ⟨.ev10, 10, 0x300, 0x200⟩
  | .rxCopy _ => ⟨.ev10, 10, 0x300, 0x200⟩
  | .rxCopyLast _ => ⟨.ev10, 10, 0x300, 0x200⟩
  | .rFill => ⟨.sub, 10, 0x3FF, 0x000⟩
  | .rInit => ⟨.sub, 10, 0x3FF, 0x000⟩
  | .rEnable => ⟨.sub, 10, 0x3FF, 0x000⟩
  | .tAdvance => ⟨.sub, 10, 0x3FF, 0x100⟩
  | .tFetch => ⟨.sub, 10, 0x3FF, 0x100⟩
  | .tThresh => ⟨.sub, 10, 0x3FF, 0x100⟩
  | .tPack => ⟨.sub, 10, 0x3FF, 0x100⟩
  | .tTx0 => ⟨.sub, 10, 0x3FF, 0x100⟩
  | .tTx1 => ⟨.sub, 10, 0x3FF, 0x300⟩
  | .tStbHi => ⟨.sub, 10, 0x3FF, 0x300⟩
  | .tSel => ⟨.sub, 10, 0x3FF, 0x300⟩
  | .tStbLo => ⟨.sub, 10, 0x3FF, 0x300⟩
  | .fbRead _ => ⟨.fn, 9, 0x0, 0x0⟩
  | .fbWrite _ _ => ⟨.fn, 17, 0x0, 0x0⟩
  | .pixLo _ => ⟨.fn, 8, 0x0, 0x0⟩
  | .pixHi _ => ⟨.fn, 8, 0x0, 0x0⟩
  | .pixPack _ _ => ⟨.fn, 8, 0x0, 0x0⟩
  | .fbPixel _ _ => ⟨.fn, 10, 0x0, 0x0⟩
  | .laneGt _ _ => ⟨.fn, 8, 0x0, 0x0⟩
  | .select _ => ⟨.fn, 6, 0x0, 0x0⟩

/-- The format of a word. -/
def CodeWord.format : CodeWord → Format
  | .ev10 _ => .ev10
  | .sub _ _ => .sub
  | .fbRead _ | .fbWrite _ | .pixLo _ | .pixHi _ | .pixPack _ | .fbPixel _ | .laneGt _ | .select _ => .fn

/-- The number of bits of a word in a build (30_encoding.md R95) and their value. -/
def CodeWord.number (b : Build) : CodeWord → Nat × Nat
  | .ev10 w => (10, w.toNat)
  | .sub w _ => (10, w.toNat)
  | .fbRead w => (b.offsetBits, w)
  | .fbWrite w => (b.offsetBits + 8, w)
  | .pixLo w => (8, w.toNat)
  | .pixHi w => (8, w.toNat)
  | .pixPack w => (8, w.toNat)
  | .fbPixel w => (b.rowBits + 4, w)
  | .laneGt w => (8, w.toNat)
  | .select w => (b.rowBits, w)

end Sys2Proof

namespace Sys2Proof.Laws.TableRow

/-- On this hardware the word of `i` has the format and the bits of its row and the row's fixed bits, and with its
operands in their domains it fits those bits. -/
def Statement (i : Instr) : Prop :=
  (encode i).format = (tableRow i).format ∧ ((encode i).number .standard).1 = (tableRow i).bits ∧
    ((encode i).number .standard).2 &&& (tableRow i).mask = (tableRow i).fixed ∧
    (i.wellFormed .standard = true → ((encode i).number .standard).2 < 2 ^ (tableRow i).bits)

/-- The two top bits of an RX word are fixed whatever its byte. -/
theorem rxWord_fixed : ∀ d : Byte, ((0b10 : BitVec 2) ++ d).toNat &&& 0x300 = 0x200 := by decide

/-- The field widths of this hardware. -/
theorem offsetBits_standard : Build.standard.offsetBits = 9 := by decide
theorem rowBits_standard : Build.standard.rowBits = 6 := by decide

/-- The domain of an offset, a row. -/
theorem offset_lt {o : Nat} (h : offsetOk .standard o = true) : o < 384 := of_decide_eq_true h
theorem row_lt {r : Nat} (h : rowOk .standard r = true) : r < 48 := of_decide_eq_true h

theorem reset : Statement .reset := by unfold Statement; decide
theorem tick : Statement .tick := by unfold Statement; decide
theorem txdoneW0 : Statement .txdoneW0 := by unfold Statement; decide
theorem txdoneW1 : Statement .txdoneW1 := by unfold Statement; decide
theorem rxM0 : Statement .rxM0 := by unfold Statement; decide
theorem rxM1 : Statement .rxM1 := by unfold Statement; decide
theorem rxM2 : Statement .rxM2 := by unfold Statement; decide
theorem rxM3 : Statement .rxM3 := by unfold Statement; decide
theorem rxM4 : Statement .rxM4 := by unfold Statement; decide
theorem rxM5 : Statement .rxM5 := by unfold Statement; decide
theorem rxRestart : Statement .rxRestart := by unfold Statement; decide
theorem rxMiss (d : Byte) : Statement (.rxMiss d) := ⟨rfl, rfl, rxWord_fixed d, fun _ => BitVec.isLt _⟩
theorem rxCopy (d : Byte) : Statement (.rxCopy d) := ⟨rfl, rfl, rxWord_fixed d, fun _ => BitVec.isLt _⟩
theorem rxCopyLast (d : Byte) : Statement (.rxCopyLast d) := ⟨rfl, rfl, rxWord_fixed d, fun _ => BitVec.isLt _⟩
theorem rFill : Statement .rFill := by unfold Statement; decide
theorem rInit : Statement .rInit := by unfold Statement; decide
theorem rEnable : Statement .rEnable := by unfold Statement; decide
theorem tAdvance : Statement .tAdvance := by unfold Statement; decide
theorem tFetch : Statement .tFetch := by unfold Statement; decide
theorem tThresh : Statement .tThresh := by unfold Statement; decide
theorem tPack : Statement .tPack := by unfold Statement; decide
theorem tTx0 : Statement .tTx0 := by unfold Statement; decide
theorem tTx1 : Statement .tTx1 := by unfold Statement; decide
theorem tStbHi : Statement .tStbHi := by unfold Statement; decide
theorem tSel : Statement .tSel := by unfold Statement; decide
theorem tStbLo : Statement .tStbLo := by unfold Statement; decide
theorem fbRead (o : Nat) : Statement (.fbRead o) :=
  ⟨rfl, offsetBits_standard, Nat.and_zero _, fun h => Nat.lt_trans (offset_lt h) (show 384 < 2 ^ 9 by decide)⟩
theorem fbWrite (o : Nat) (d : Byte) : Statement (.fbWrite o d) :=
  ⟨rfl, congrArg (· + 8) offsetBits_standard, Nat.and_zero _, fun h =>
    show o * 256 + d.toNat < 2 ^ 17 by have := offset_lt h; omega⟩
theorem pixLo (b : Byte) : Statement (.pixLo b) := ⟨rfl, rfl, Nat.and_zero _, fun _ => BitVec.isLt _⟩
theorem pixHi (b : Byte) : Statement (.pixHi b) := ⟨rfl, rfl, Nat.and_zero _, fun _ => BitVec.isLt _⟩
theorem pixPack (hi lo : Pixel) : Statement (.pixPack hi lo) := ⟨rfl, rfl, Nat.and_zero _, fun _ => BitVec.isLt _⟩
theorem fbPixel (r : Nat) (c : BitVec 4) : Statement (.fbPixel r c) :=
  ⟨rfl, congrArg (· + 4) rowBits_standard, Nat.and_zero _, fun h =>
    show r * 16 + c.toNat < 2 ^ 10 by have := row_lt h; omega⟩
theorem laneGt (v l : BitVec 4) : Statement (.laneGt v l) := ⟨rfl, rfl, Nat.and_zero _, fun _ => BitVec.isLt _⟩
theorem select (r : Nat) : Statement (.select r) :=
  ⟨rfl, rowBits_standard, Nat.and_zero _, fun h => Nat.lt_trans (row_lt h) (show 48 < 2 ^ 6 by decide)⟩

end Sys2Proof.Laws.TableRow
end

