-- ==== Sys2Proof/Laws/RowSelect.lean ====
section
/-! SUPPORT. The laws of the selector and of the port encoding (41_row_select.md). -/

namespace Sys2Proof

/-- The open bank bounds of an admitted build are legal (41_row_select.md R121). -/
theorem Build.bankN1_pos (b : Build) : 0 < b.bankN1 := by
  unfold Build.bankN1
  omega

theorem Build.bankN1_lt_bankN2 (b : Build) : b.bankN1 < b.bankN2 := by
  unfold Build.bankN2
  omega

theorem Build.bankN2_lt_rows {b : Build} (h : b.legal) : b.bankN2 < b.rows := by
  have h1 : b.bankN1 < b.rows - 1 := by
    have := Nat.mod_lt Config.rawN1 (show b.rows - 2 > 0 by omega)
    unfold Build.bankN1
    omega
  have h2 := Nat.mod_lt Config.rawN2 (show b.rows - 1 - b.bankN1 > 0 by omega)
  unfold Build.bankN2
  omega

/-- A port triple has room for every row. -/
theorem Build.rows_le_ports (b : Build) : b.rows ≤ 2 ^ b.portW * 2 ^ b.portW * 2 ^ b.portW := by
  have h1 : b.rows - 1 < 2 ^ b.rowBits := Nat.lt_log2_self
  have h2 : 2 ^ b.rowBits ≤ 2 ^ (b.portW + b.portW + b.portW) :=
    Nat.pow_le_pow_right (by decide) (by unfold Build.portW; omega)
  rw [Nat.pow_add, Nat.pow_add] at h2
  omega

theorem Config.portValues_injective {w : Nat} {a b : Config.PortBits w}
    (h : Config.portValues a = Config.portValues b) : a = b := by
  obtain ⟨a0, a1, a2⟩ := a
  obtain ⟨b0, b1, b2⟩ := b
  simp only [Config.portValues, Config.Port3.mk.injEq] at h
  rw [BitVec.eq_of_toNat_eq h.1, BitVec.eq_of_toNat_eq h.2.1, BitVec.eq_of_toNat_eq h.2.2]

end Sys2Proof

namespace Sys2Proof.Machine

/-- The base of the bank of a row is at or below the row. -/
theorem bankBase_bankOf_le (n1 n2 row : Nat) : bankBase n1 n2 (bankOf n1 n2 row) ≤ row := by
  unfold bankOf
  split
  · simp [bankBase]
  · split <;> simp [bankBase] <;> omega

/-- The pattern of a row stands for the row. -/
theorem rowOfPattern_selectRow (b : Build) (row : Nat) : rowOfPattern b (selectRow b row) = row := by
  simp only [rowOfPattern, selectRow, selectWith]
  rw [Nat.shiftLeft_shiftRight]
  have := bankBase_bankOf_le b.bankN1 b.bankN2 row
  omega

/-- Three digits of `w` bits determine a row below `2 ^ (3 w)`. -/
theorem rowDigits_injective {w r r' : Nat} (hr : r < 2 ^ w * 2 ^ w * 2 ^ w) (hr' : r' < 2 ^ w * 2 ^ w * 2 ^ w)
    (h : rowDigits w r = rowDigits w r') : r = r' := by
  simp only [rowDigits, Prod.mk.injEq] at h
  have e := fun {x y : Nat} (h : BitVec.ofNat w x = BitVec.ofNat w y) => congrArg BitVec.toNat h
  simp only [BitVec.toNat_ofNat] at e
  have top : ∀ {x : Nat}, x < 2 ^ w * 2 ^ w * 2 ^ w → x / 2 ^ w / 2 ^ w < 2 ^ w := by
    intro x hx
    rw [Nat.div_div_eq_div_mul]
    exact Nat.div_lt_of_lt_mul hx
  have h2 := e h.2.2
  rw [Nat.mod_eq_of_lt (top hr), Nat.mod_eq_of_lt (top hr')] at h2
  have h1 : r / 2 ^ w = r' / 2 ^ w := by
    rw [← Nat.div_add_mod (r / 2 ^ w) (2 ^ w), ← Nat.div_add_mod (r' / 2 ^ w) (2 ^ w), h2, e h.2.1]
  rw [← Nat.div_add_mod r (2 ^ w), ← Nat.div_add_mod r' (2 ^ w), h1, e h.1]

theorem portEncode_fits (b : Build) (e : Enpat) :
    (portEncode b e).p0 < 2 ^ b.portW ∧ (portEncode b e).p1 < 2 ^ b.portW ∧ (portEncode b e).p2 < 2 ^ b.portW :=
  ⟨BitVec.isLt _, BitVec.isLt _, BitVec.isLt _⟩

end Sys2Proof.Machine
end

