-- ==== Sys2Proof/Tests/Slice0.lean ====
section
/-! SUPPORT. Tests on fixed values, their expected results taken from the spec (95_test_vectors.md unless said
otherwise), and a witness for the hypotheses of every statement that has some. -/

namespace Sys2Proof.Tests

open Sys2Proof Sys2Proof.Machine

/-! ## Small states -/

/-- A build without M0_RESTART. -/
def noRestart : Build := { rows := 48, m0Restart := false }

/-- The smallest build: three rows, 24 bytes. -/
def threeRows : Build := { rows := 3, m0Restart := true }

/-- Seeking, idle, at a step of the marker. -/
def seekAt (k : Fin 6) : State := { State.reset with step := k }

/-- Copying, idle, at an offset. -/
def copyAt (w : Nat) : State := { State.reset with phase := .copying, writeOffset := w }

/-- Idle, at a cursor position. -/
def cursorAt (r l : Nat) : State := { State.reset with row := r, level := l, rowOffset := r * 8 }

/-- A tick in progress: the first byte handed over. -/
def waiting0 : State := { State.reset with level := 1, tseq := .wait0, ob0 := 0xA5, ob1 := 0x3C, trace := [.tx 0xA5] }

/-- A tick in progress: both bytes handed over. -/
def waiting1 : State :=
  { State.reset with level := 1, tseq := .wait1, ob0 := 0xA5, ob1 := 0x3C, trace := [.tx 0xA5, .tx 0x3C] }

/-- Before the first RESET. -/
def beforeReset : State := { State.reset with enabled := false }

/-- A row fetched and a level. -/
def rowAt (rb : Vector Byte 8) (l : Nat) : State :=
  { State.reset with level := l, scratch := { Scratch.empty with rb := rb } }

/-- The same state with some events offered. -/
def offer (s : State) (ws : List EvWord) : State := { s with input := ws }

/-- A row in memory: the bytes at offsets 0 to 7. -/
def withRow0 (s : State) (bs : List Byte) : State :=
  { s with fb := bs.zipIdx.filter (fun c => c.1 != 0xFF) |>.map (fun c => (c.2, c.1)) }

/-- What one looks at in a state that is the outcome of an operation. -/
def after {α : Type} (o : Host.Outcome State Fault Refusal) (f : State → α) : Option α :=
  match o with
  | .next t => some (f t)
  | .fault _ => none
  | .refused _ => none

/-- The output bytes after packing the decisions of a row at a level. -/
def outputs (rb : Vector Byte 8) (l : Nat) : Option (Byte × Byte) :=
  after (andThen (exec .tThresh (rowAt rb l)) (exec .tPack)) (fun t => (t.ob0, t.ob1))

/-! ## WellFormed refuses an ill-formed term of each check -/

theorem test_wf_offset : (Instr.fbRead 384).wellFormed .standard = false ∧ (Instr.fbWrite 384 0).wellFormed .standard = false ∧
    (Instr.fbRead 383).wellFormed .standard = true := by decide
theorem test_wf_row : (Instr.fbPixel 48 0).wellFormed .standard = false ∧ (Instr.select 48).wellFormed .standard = false ∧
    (Instr.select 47).wellFormed .standard = true := by decide
theorem test_wf_level : (Instr.laneGt 0 15).wellFormed .standard = false ∧ (Instr.laneGt 0 14).wellFormed .standard = true := by decide
theorem test_wf_miss : (Instr.rxMiss 0xDE).wellFormed .standard = false ∧
    (Instr.rxMiss 0xDE).wellFormed noRestart = true ∧ Instr.rxRestart.wellFormed noRestart = false := by decide

/-! ## Decoding: words written out from 30_encoding.md R90, R95 -/

/-- The mode of a state. -/
def seekMode (k : Fin 6) : DecodeMode := ⟨.standard, .idle, .seeking, k, 0⟩

theorem test_decode_reset : decode (seekMode 0) (.ev10 0b0000000000) = .ok .reset := by decide
theorem test_decode_tick : decode (seekMode 0) (.ev10 0b0100000000) = .ok .tick := by decide
theorem test_decode_txdone0 : decode ⟨.standard, .wait0, .seeking, 0, 0⟩ (.ev10 0b1100000000) = .ok .txdoneW0 := by decide
theorem test_decode_txdone1 : decode ⟨.standard, .wait1, .seeking, 0, 0⟩ (.ev10 0b1100000000) = .ok .txdoneW1 := by decide
theorem test_decode_m0 : decode (seekMode 0) (.ev10 0b1011011110) = .ok .rxM0 := by decide
theorem test_decode_m1 : decode (seekMode 1) (.ev10 0b1010101101) = .ok .rxM1 := by decide
theorem test_decode_m2 : decode (seekMode 2) (.ev10 0b1010111110) = .ok .rxM2 := by decide
theorem test_decode_m3 : decode (seekMode 3) (.ev10 0b1011101111) = .ok .rxM3 := by decide
theorem test_decode_m4 : decode (seekMode 4) (.ev10 0b1000000001) = .ok .rxM4 := by decide
theorem test_decode_m5 : decode (seekMode 5) (.ev10 0b1000000010) = .ok .rxM5 := by decide
theorem test_decode_restart : decode (seekMode 1) (.ev10 0b1011011110) = .ok .rxRestart := by decide
theorem test_decode_miss : decode (seekMode 3) (.ev10 0b1011101110) = .ok (.rxMiss 0xEE) := by decide
theorem test_decode_copy : decode ⟨.standard, .idle, .copying, 0, 9⟩ (.ev10 0b1010100011) = .ok (.rxCopy 0xA3) := by decide
theorem test_decode_copyLast : decode ⟨.standard, .idle, .copying, 0, 383⟩ (.ev10 0b1010100011) = .ok (.rxCopyLast 0xA3) := by
  decide
theorem test_decode_resetSubSteps :
    [1, 2, 3].map (fun k => decode (seekMode 0) (.sub 0b0000000000 k)) = [.ok .rFill, .ok .rInit, .ok .rEnable] := by
  decide
theorem test_decode_tickSubSteps :
    [1, 2, 3, 4, 5].map (fun k => decode (seekMode 0) (.sub 0b0100000000 k))
      = [.ok .tAdvance, .ok .tFetch, .ok .tThresh, .ok .tPack, .ok .tTx0] := by decide
theorem test_decode_txdoneSubSteps :
    decode ⟨.standard, .wait0, .seeking, 0, 0⟩ (.sub 0b1100000000 1) = .ok .tTx1 ∧
    [1, 2, 3].map (fun k => decode ⟨.standard, .wait1, .seeking, 0, 0⟩ (.sub 0b1100000000 k))
      = [.ok .tStbHi, .ok .tSel, .ok .tStbLo] := by decide
theorem test_decode_fbRead : decode (seekMode 0) (.fbRead 0b101111111) = .ok (.fbRead 383) := by decide
theorem test_decode_fbWrite : decode (seekMode 0) (.fbWrite 0b00000100110100011) = .ok (.fbWrite 9 0xA3) := by decide
theorem test_decode_pixLo : decode (seekMode 0) (.pixLo 0b10100011) = .ok (.pixLo 0xA3) := by decide
theorem test_decode_pixHi : decode (seekMode 0) (.pixHi 0b10100011) = .ok (.pixHi 0xA3) := by decide
theorem test_decode_pixPack : decode (seekMode 0) (.pixPack 0b10100011) = .ok (.pixPack 10 3) := by decide
theorem test_decode_fbPixel : decode (seekMode 0) (.fbPixel 0b0100010101) = .ok (.fbPixel 17 5) := by decide
theorem test_decode_laneGt : decode (seekMode 0) (.laneGt 0b00110010) = .ok (.laneGt 3 2) := by decide
theorem test_decode_select : decode (seekMode 0) (.select 0b010001) = .ok (.select 17) := by decide
/-- Reserved words, a sub-step that does not exist, operands outside their domains. -/
theorem test_decode_rejects :
    decode (seekMode 0) (.ev10 0x001) = .error (.reservedWord 0x001) ∧
    decode (seekMode 0) (.ev10 0x180) = .error (.reservedWord 0x180) ∧
    decode (seekMode 0) (.ev10 0x3FF) = .error (.reservedWord 0x3FF) ∧
    decode (seekMode 0) (.sub 0x100 6) = .error (.noSubStep 6) ∧
    decode (seekMode 0) (.sub 0x100 0) = .error (.noSubStep 0) ∧
    decode (seekMode 0) (.fbRead 384) = .error .outOfDomain ∧
    decode (seekMode 0) (.laneGt 0x0F) = .error .outOfDomain := by decide
theorem test_decodeBytes :
    decodeBytes [0xDE, 0x02, 0x77] = .ok (.rx 0xDE, [0x77]) ∧
    decodeBytes [0x00, 0x04] = .error .containerBits ∧ decodeBytes [0x00] = .error .shortContainer ∧
    encodeBytes 0x2DE = [0xDE, 0x02] := by decide
theorem test_decodeTableWord :
    decodeTableWord 16 0x000 = some .reset ∧ decodeTableWord 16 0x100 = some .tick ∧
    decodeTableWord 16 0x300 = some .txdoneW0 ∧ decodeTableWord 16 0x2BE = some .rxM2 ∧
    decodeTableWord 16 0x200 = some (.rxMiss 0) ∧ decodeTableWord 16 0x301 = none ∧
    decodeTableWord 24 0x000 = none ∧ decodeTableWord 8 0x000 = none ∧
    decodeTableWord 9 0x000 = some .reset ∧ decodeTableWord 10 0x2BE = some .rxM2 := by decide
/-- R97 and the EV10 list of P5. -/
theorem test_script :
    scriptWords [.reset, .tickc] = [0x000, 0x100, 0x300, 0x300] ∧
    scriptWords [.reset, .rxs [0x00, 0xDE], .marker, .rx 0x0F]
      = [0x000, 0x200, 0x2DE, 0x2DE, 0x2AD, 0x2BE, 0x2EF, 0x201, 0x202, 0x20F] := by decide

/-! ## One operation at a time -/

/-- V-RST1. -/
theorem test_reset :
    after (exec .reset { waiting1 with fb := [(3, 0x21)], phase := .copying, writeOffset := 4 })
      (fun t => (t.fb, t.level, t.phase, t.writeOffset)) = some ([], 0, .seeking, 0) ∧
    after (exec .reset waiting1) (fun t => (t.tseq, t.ob0, t.ob1)) = some (.idle, 0, 0) := by decide
/-- V-RST2: the trace restarts, and a completion of the run before is refused. -/
theorem test_reset_midRun :
    after (exec .reset waiting0) (fun t => t.trace) = some [] ∧
    after (andThen (exec .reset waiting0) (fun t => exec (operationOf t.mode .txdone) t)) (fun _ => ()) = none := by
  decide
/-- V-SEQ1, first step. -/
theorem test_tick :
    after (exec .tick State.reset) (fun t => (t.tseq, t.row, t.level)) = some (.wait0, 0, 1) ∧
    after (exec .tick State.reset) (fun t => (t.ob0, t.ob1, t.trace)) = some (0xFF, 0xFF, [.tx 0xFF]) := by decide
/-- P3, first tick: three bytes of row 0 received, then a tick at level 1. -/
theorem test_tick_mixedRow :
    after (exec .tick (withRow0 State.reset [0, 0, 0])) (fun t => (t.level, t.ob0, t.ob1)) = some (1, 0xC0, 0xFF) := by
  decide
/-- V-SEQ1, second step. -/
theorem test_txdoneW0 :
    after (exec .txdoneW0 waiting0) (fun t => (t.tseq, t.trace)) = some (.wait1, [.tx 0xA5, .tx 0x3C]) := by decide
/-- V-SEQ1, third step. -/
theorem test_txdoneW1 :
    after (exec .txdoneW1 waiting1) (fun t => (t.tseq, t.strobe, t.trace.length)) = some (.idle, false, 5) := by decide
/-- V-SEQ2. -/
theorem test_refusals :
    exec .tick waiting0 = .refused .tickWhileBusy ∧ exec .tick waiting1 = .refused .tickWhileBusy ∧
    exec .txdoneW0 State.reset = .refused .txdoneWhileIdle ∧ exec .tick beforeReset = .refused .beforeReset :=
  ⟨rfl, rfl, rfl, rfl⟩
/-- V-SEQ3: held while waiting, accepted when idle. -/
theorem test_held :
    after (step (offer waiting0 [0x2DE])) (fun t => (t.step, t.input)) = some (0, [0x2DE]) ∧
    after (step (offer State.reset [0x2DE])) (fun t => (t.step, t.input)) = some (1, []) := by decide
/-- 60_exceptions.md R184: the completion behind a held byte is taken, the byte stays offered. -/
theorem test_held_passed :
    after (step (offer waiting0 [0x2DE, 0x300])) (fun t => (t.tseq, t.input)) = some (.wait1, [0x2DE]) := by decide
/-- V-SEQ4. -/
theorem test_hang : step waiting0 = .next waiting0 := rfl
/-- V-RX1, V-RX2: each marker byte at its step; a wrong one. -/
theorem test_marker :
    after (exec .rxM0 (seekAt 0)) (fun t => t.step) = some 1 ∧ after (exec .rxM1 (seekAt 1)) (fun t => t.step) = some 2 ∧
    after (exec .rxM2 (seekAt 2)) (fun t => t.step) = some 3 ∧ after (exec .rxM3 (seekAt 3)) (fun t => t.step) = some 4 ∧
    after (exec .rxM4 (seekAt 4)) (fun t => t.step) = some 5 := by decide
theorem test_marker_last :
    after (exec .rxM5 { seekAt 5 with writeOffset := 384 }) (fun t => (t.phase, t.step, t.writeOffset, t.trace))
      = some (.copying, 0, 0, [.ind]) := by decide
/-- An operation executed where the state selects another one. -/
theorem test_marker_notSelected : exec .rxM2 (seekAt 1) = .refused (.notSelected "RX.M2") := rfl
/-- V-RX3, V-RX2, V-RX4. -/
theorem test_restart : after (exec .rxRestart (seekAt 3)) (fun t => t.step) = some 1 := by decide
theorem test_miss : after (exec (.rxMiss 0xEE) (seekAt 3)) (fun t => t.step) = some 0 ∧
    exec (.rxMiss 0xAD) (seekAt 0) = .next (seekAt 0) := ⟨by decide, rfl⟩
/-- V-RX3 with M0_RESTART false: the second DE is a miss. -/
theorem test_restart_off :
    after (step (offer { seekAt 1 with build := noRestart } [0x2DE])) (fun t => (t.step, t.build.m0Restart))
      = some (0, false) ∧
    after (step (offer { seekAt 0 with build := noRestart } [0x2DE])) (fun t => t.step) = some 1 := by decide
/-- V-RX5: no marker recognition while copying; R134's example. -/
theorem test_copy :
    after (step (offer (copyAt 1) [0x2DE])) (fun t => (t.fb, t.phase, t.step, t.writeOffset))
      = some ([(1, 0xDE)], .copying, 0, 2) ∧
    after (exec (.rxCopy 0xA3) (copyAt 9)) (fun t => (t.fb, t.writeOffset)) = some ([(9, 0xA3)], 10) := by decide
/-- V-RX6: the last byte. -/
theorem test_copyLast :
    after (step (offer (copyAt 383) [0x200])) (fun t => (t.fb, t.phase, t.step, t.writeOffset))
      = some ([(383, 0x00)], .seeking, 0, 384) := by decide
/-- 70_reset_and_hazards.md R211, R214, R212. -/
theorem test_rFill : after (exec .rFill { State.reset with fb := [(0, 0x0F), (383, 1)] }) (fun t => (t.fb, t.fb.byteAt 383))
    = some ([], 0xFF) := by decide
theorem test_rInit :
    after (exec .rInit { waiting0 with fb := [(0, 0x0F)] }) (fun t => (t.fb, t.tseq, t.level, t.ob0))
      = some ([(0, 0x0F)], .idle, 0, 0) := by decide
theorem test_rEnable : after (exec .rEnable beforeReset) (fun t => t.enabled) = some true := by decide
/-- V-CUR1, all seven rows. -/
theorem test_advance :
    [(0, 0), (0, 13), (0, 14), (5, 3), (46, 14), (47, 13), (47, 14)].map
      (fun p => after (exec .tAdvance (cursorAt p.1 p.2)) (fun t => (t.row, t.level, t.rowOffset)))
      = [some (0, 1, 0), some (0, 14, 0), some (1, 0, 8), some (5, 4, 40), some (47, 0, 376), some (47, 14, 376),
         some (0, 0, 0)] := by decide
theorem test_fetch :
    after (exec .tFetch { cursorAt 1 0 with fb := [(7, 1), (8, 0x10), (15, 0x80), (16, 2)] }) (fun t => t.scratch.rb)
      = some #v[0x10, 0xFF, 0xFF, 0xFF, 0xFF, 0xFF, 0xFF, 0x80] := by decide
/-- A cursor outside the grid, which no run reaches. -/
theorem test_fetch_outside : exec .tFetch (cursorAt 48 0) = .fault (.addressOutOfRange 384) := rfl
/-- 43_refresh.md R152, 42_ingestion.md R135 with three rows. -/
theorem test_threeRows :
    after (exec .tAdvance { cursorAt 2 14 with build := threeRows }) (fun t => (t.row, t.level, t.rowOffset))
      = some (0, 0, 0) ∧
    after (step (offer { copyAt 23 with build := threeRows } [0x200])) (fun t => (t.fb, t.phase, t.writeOffset))
      = some ([(23, 0x00)], .seeking, 24) := by decide
/-- V-TH1, five of its levels. -/
theorem test_gradient :
    [0, 3, 7, 8, 14].map (outputs #v[0x10, 0x32, 0x54, 0x76, 0x98, 0xBA, 0xDC, 0xFE])
      = [some (0xFE, 0xFF), some (0xF0, 0xFF), some (0x00, 0xFF), some (0x00, 0xFE), some (0x00, 0x80)] := by decide
/-- V-TH2: bit order, nibble order, byte order, strictness. -/
theorem test_rows :
    outputs #v[0xF0, 0, 0, 0, 0, 0, 0, 0] 14 = some (0x02, 0x00) ∧
    outputs #v[0, 0, 0, 0, 0x01, 0, 0, 0x80] 0 = some (0x00, 0x81) ∧
    outputs #v[0, 0, 0, 0, 0x01, 0, 0, 0x80] 7 = some (0x00, 0x80) ∧
    outputs #v[0xEE, 0xEE, 0xEE, 0xEE, 0xEE, 0xEE, 0xEE, 0xEE] 14 = some (0x00, 0x00) ∧
    outputs #v[0x5A, 0xA5, 0, 0, 0, 0, 0, 0] 4 = some (0x0F, 0x00) ∧
    outputs #v[0x5A, 0xA5, 0, 0, 0, 0, 0, 0] 5 = some (0x09, 0x00) := by decide
theorem test_tx :
    after (exec .tTx0 { waiting1 with tseq := .idle, trace := [] }) (fun t => (t.tseq, t.trace))
      = some (.wait0, [.tx 0xA5]) ∧
    after (exec .tTx1 waiting0) (fun t => (t.tseq, t.trace)) = some (.wait1, [.tx 0xA5, .tx 0x3C]) := by decide
theorem test_strobe :
    after (exec .tStbHi State.reset) (fun t => (t.strobe, t.trace)) = some (true, [.stb true]) ∧
    after (exec .tStbLo { State.reset with strobe := true }) (fun t => (t.strobe, t.trace)) = some (false, [.stb false]) := by
  decide
theorem test_tSel : after (exec .tSel waiting1) (fun t => t.ports) = some (portEncode .standard (selectRow .standard 0)) := rfl
/-- V-FB1. -/
theorem test_fbWrite_fbRead :
    after (andThen (exec (.fbWrite 9 0xA3) State.reset) (exec (.fbRead 9))) (fun t => (t.fb, t.scratch.ret))
      = some ([(9, 0xA3)], some (.byte 0xA3)) ∧
    after (andThen (exec (.fbWrite 383 0x00) State.reset) (exec (.fbRead 383))) (fun t => t.scratch.ret)
      = some (some (.byte 0x00)) := by decide
theorem test_fbWrite_resetByte : after (exec (.fbWrite 9 0xFF) { State.reset with fb := [(8, 1), (9, 2)] }) (fun t => t.fb)
    = some [(8, 1)] := by decide
/-- V-FB1: pixels (1, 2) and (1, 3). -/
theorem test_fbPixel :
    after (exec (.fbPixel 1 2) { State.reset with fb := [(9, 0xA3)] }) (fun t => t.scratch.ret)
      = some (some (.pixel 3)) ∧
    after (exec (.fbPixel 1 3) { State.reset with fb := [(9, 0xA3)] }) (fun t => t.scratch.ret)
      = some (some (.pixel 10)) := by decide
/-- V-PIX1, V-PIX2, V-PIX3. -/
theorem test_pixLo : [0x00, 0x0F, 0xF0, 0xFF, 0xA3, 0x21].map pixLo = [0, 15, 0, 15, 3, 1] := by decide
theorem test_pixHi : [0x00, 0x0F, 0xF0, 0xFF, 0xA3, 0x21].map pixHi = [0, 0, 15, 15, 10, 2] := by decide
theorem test_pixPack : pixPack 0 15 = 0x0F ∧ pixPack 15 0 = 0xF0 ∧ pixPack 10 3 = 0xA3 := by decide
theorem test_pixelAddr : [(0, 0), (0, 15), (1, 0), (17, 5), (47, 15)].map (fun p => pixelAddr p.1 p.2)
    = [0, 7, 8, 138, 383] := by decide
/-- V-GT1, at its corners. -/
theorem test_laneGt :
    after (exec (.laneGt 5 5) State.reset) (fun t => t.scratch.ret) = some (some (.bit false)) ∧
    after (exec (.laneGt 15 14) State.reset) (fun t => t.scratch.ret) = some (some (.bit true)) := by decide
/-- V-SEL1, V-SEL2. -/
theorem test_select :
    [0, 15, 16, 31, 32, 47].map (selectWith 16 32 0) = [⟨0, 0⟩, ⟨0, 15⟩, ⟨1, 0⟩, ⟨1, 15⟩, ⟨2, 0⟩, ⟨2, 15⟩] ∧
    [9, 10, 47].map (selectWith 10 20 1) = [⟨0, 18⟩, ⟨1, 0⟩, ⟨2, 54⟩] := by decide
theorem test_enableLines : [0, 17, 47].map (fun r => enableLines (selectWith 16 32 0 r)) = [0b110, 0b101, 0b011] := by
  decide
theorem test_referencePort :
    [0, 17, 47].map (fun r => [0, 1, 2].map (referencePort (selectWith 16 32 0 r)))
      = [[0x00, 0x10, 0x10], [0x10, 0x01, 0x10], [0x10, 0x10, 0x0F]] := by decide

/-! ## The host's two questions -/

theorem test_withFetchWord :
    after (step (State.reset.withFetchWord 16 0x2EF)) (fun t => (t.step, t.input)) = some (4, []) ∧
    after (step (State.reset.withFetchWord 16 0x300)) (fun t => t.tseq) = some .wait1 ∧
    step (State.reset.withFetchWord 16 0x301) = .refused (.reservedWord 0x001) := ⟨by decide, by decide, rfl⟩

/-! ## Good states -/

theorem freePorts_fit (b : Build) (draw : Nat) : portsFit b.portW (b.freePorts draw) :=
  ⟨BitVec.isLt _, BitVec.isLt _, BitVec.isLt _⟩

theorem good_reset : Inv State.reset :=
  ⟨by decide, rfl, by decide, by decide, rfl, by decide, by decide, by decide, rfl, rfl, rfl, rfl, Memory.nil_wf _,
    freePorts_fit _ _, rfl⟩

theorem good_seekAt (k : Fin 6) : Inv (seekAt k) :=
  { good_reset with step := fun h => nomatch h }

theorem good_copyAt {w : Nat} (h : w < 384) : Inv (copyAt w) :=
  { good_reset with step := fun _ => rfl, offset := Nat.le_of_lt h, copying := fun _ => h }

theorem good_cursorAt {r l : Nat} (hr : r < 48) (hl : l < Config.levels1) : Inv (cursorAt r l) :=
  { good_reset with row := hr, level := hl, rowOffset := rfl }

theorem good_waiting0 : Inv waiting0 :=
  { good_reset with level := by decide, countTx := rfl, countSel := rfl, countLow := rfl }

theorem good_waiting1 : Inv waiting1 :=
  { good_reset with level := by decide, countTx := rfl, countSel := rfl, countLow := rfl }

theorem good_offer {s : State} (h : Inv s) (ws : List EvWord) : Inv (offer s ws) := { h with }

/-! ## Witnesses: states and operands that meet the hypotheses of a statement, clause by clause -/

theorem witness_DecodeEncodeAgree :
    (Instr.rxMiss 0xEE).wellFormed .standard = true ∧ (Instr.rxMiss 0xEE).selectedIn (seekMode 3) = true ∧
    (Instr.fbWrite 383 0).wellFormed .standard = true ∧ (Instr.fbWrite 383 0).selectedIn (seekMode 0) = true ∧
    Instr.tSel.wellFormed .standard = true ∧ Instr.tSel.selectedIn ⟨.standard, .wait1, .copying, 0, 383⟩ = true := by decide

theorem witness_EachEventPerformsOneOperation_rx :
    let m : DecodeMode := ⟨.standard, .idle, .copying, 0, 383⟩
    (m.phase = .copying → m.writeOffset < m.build.capacity) ∧ m.tseq = .idle := by decide
theorem witness_EachEventPerformsOneOperation_txdone :
    let m : DecodeMode := ⟨.standard, .wait1, .seeking, 5, 384⟩
    (m.phase = .copying → m.writeOffset < m.build.capacity) ∧ m.tseq ≠ .idle := by decide

theorem witness_StepRunsTheDecodedOperation :
    let s := offer State.reset [0x2DE, 0x100]
    s.input = 0x2DE :: [0x100] ∧ (s.holdsRx && isRxWord 0x2DE) = false ∧ decode s.mode (.ev10 0x2DE) = .ok .rxM0 := by
  decide

theorem witness_HeldBytesLetTheCompletionPass_taken :
    let s := offer waiting0 [0x2DE, 0x2AD, 0x300, 0x2BE]
    s.holdsRx = true ∧ s.input = rxWords [0xDE, 0xAD] ++ 0x300 :: [0x2BE] ∧ isRxWord 0x300 = false ∧
      decode s.mode (.ev10 0x300) = .ok .txdoneW0 := by decide
theorem witness_HeldBytesLetTheCompletionPass_onlyHeld :
    (offer waiting1 [0x2DE]).holdsRx = true ∧ (offer waiting1 [0x2DE]).input = rxWords [0xDE] := by decide
theorem witness_HeldBytesLetTheCompletionPass_nothing : State.reset.input = [] := rfl

theorem witness_EventsWithoutMeaningAreRefused_tick : waiting0.enabled = true ∧ waiting0.tseq ≠ .idle := by decide
theorem witness_EventsWithoutMeaningAreRefused_txdone :
    State.reset.enabled = true ∧ State.reset.tseq = .idle := by decide
theorem witness_EventsWithoutMeaningAreRefused_early : beforeReset.enabled = false ∧ Event.rx 0xDE ≠ .reset := by decide
theorem witness_EventsWithoutMeaningAreRefused_word :
    (offer State.reset [0x3FF]).input = 0x3FF :: [] ∧ evKind 0x3FF ≠ 2 ∧ evByte 0x3FF ≠ 0 := by decide

theorem witness_HeldByteChangesNothing : waiting1.enabled = true ∧ waiting1.tseq ≠ .idle := by decide

theorem witness_StepKeepsInvariant :
    Inv (offer State.reset [0x2DE]) ∧ ∃ t, step (offer State.reset [0x2DE]) = .next t ∧ t.step = 1 :=
  ⟨good_offer good_reset _, _, rfl, rfl⟩

theorem witness_NoFaultFromAGoodState : Inv (offer (cursorAt 47 14) [0x100]) :=
  good_offer (good_cursorAt (by decide) (by decide)) _

theorem witness_OnlyTheseRefusals_tick :
    Inv (offer waiting0 [0x100]) ∧ step (offer waiting0 [0x100]) = .refused .tickWhileBusy :=
  ⟨good_offer good_waiting0 _, rfl⟩
theorem witness_OnlyTheseRefusals_txdone :
    Inv (offer State.reset [0x300]) ∧ step (offer State.reset [0x300]) = .refused .txdoneWhileIdle :=
  ⟨good_offer good_reset _, rfl⟩
theorem witness_OnlyTheseRefusals_word :
    Inv (offer State.reset [0x001]) ∧ step (offer State.reset [0x001]) = .refused (.reservedWord 0x001) :=
  ⟨good_offer good_reset _, rfl⟩

theorem witness_ContractedEventsAreAccepted_idle :
    Inv State.reset ∧ State.reset.admits .reset = true ∧ State.reset.admits .tick = true ∧
      State.reset.admits (.rx 0xDE) = true := ⟨good_reset, by decide⟩
theorem witness_ContractedEventsAreAccepted_waiting : Inv waiting1 ∧ waiting1.admits .txdone = true :=
  ⟨good_waiting1, by decide⟩

theorem witness_ResetStateIsGood : threeRows.legal := by decide

theorem witness_EveryOperationKeepsMemoryCanonical :
    Memory.wf State.reset.build.capacity State.reset.fb ∧ ∃ t, exec (.fbWrite 383 0x0F) State.reset = .next t ∧ t.fb = [(383, 0x0F)] :=
  ⟨Memory.nil_wf _, _, rfl, rfl⟩

theorem witness_FillLightsEveryPixel : Memory.wf 384 [(0, 0x0F), (383, 0x00)] ∧ 383 < 384 := by decide

theorem witness_ResetLeavesTheResetState : beforeReset.build.legal := by decide

theorem witness_EventsAreEnabledForEver :
    beforeReset.enabled = false ∧ beforeReset.build.legal ∧ (∃ t, exec .reset beforeReset = .next t) ∧
      State.reset.enabled = true ∧ ∃ t, exec .tStbHi State.reset = .next t :=
  ⟨rfl, by decide, ⟨_, rfl⟩, rfl, _, rfl⟩

theorem witness_FbReadReturnsTheByte :
    383 < State.reset.build.capacity ∧ 47 < State.reset.build.rows ∧
      Memory.wf State.reset.build.capacity State.reset.fb ∧
      (∃ t, exec (.fbWrite 383 0x0F) State.reset = .next t) ∧ State.reset.build.legal ∧
      ∃ t, exec .reset State.reset = .next t :=
  ⟨by decide, by decide, Memory.nil_wf _, ⟨_, rfl⟩, by decide, _, rfl⟩

theorem witness_FbWriteReplacesOneByte :
    Memory.wf State.reset.build.capacity State.reset.fb ∧ 383 < State.reset.build.capacity ∧
      ∃ t, exec (.fbWrite 0 0x0F) State.reset = .next t :=
  ⟨Memory.nil_wf _, by decide, _, rfl⟩

theorem witness_FbPixelReadsItsNibble : 47 < State.reset.build.rows ∧ (15 : BitVec 4).toNat % 2 ≠ 0 := by decide

theorem witness_WriteChangesExactlyTwoPixels : Memory.wf 384 [(383, 0x21)] ∧ 15 < Config.columns := by decide

theorem witness_OutOfRangeStopsByName :
    State.reset.build.capacity ≤ 384 ∧ State.reset.build.rows ≤ 48 ∧
      (cursorAt 48 0).build.capacity ≤ (cursorAt 48 0).rowOffset + 7 ∧ Config.levels1 ≤ (cursorAt 0 15).level ∧
      (cursorAt 48 0).build.rows ≤ (cursorAt 48 0).row := by decide

theorem witness_SelectReturnsTheBankAndOffset : 47 < State.reset.build.rows ∧ threeRows.legal := by decide

theorem witness_SelectorLawsForEveryInstance :
    0 < 1 ∧ 1 < 47 ∧ 47 < 48 ∧ selectWith 1 47 0 17 = selectWith 1 47 0 17 := by decide

theorem witness_DifferentRowsDifferentPorts :
    threeRows.legal ∧ 2 < threeRows.rows ∧
      portEncode threeRows (selectRow threeRows 2) = portEncode threeRows (selectRow threeRows 2) :=
  ⟨by decide, by decide, rfl⟩

theorem witness_MarkerByteMovesTheStep :
    ∀ k : Fin 6, (seekAt k).enabled = true ∧ (seekAt k).tseq = .idle ∧ (seekAt k).phase = .seeking ∧ (seekAt k).step = k :=
  fun _ => ⟨rfl, rfl, rfl, rfl⟩

theorem witness_LastMarkerByteStartsTheCopy :
    (seekAt 5).enabled = true ∧ (seekAt 5).tseq = .idle ∧ (seekAt 5).phase = .seeking ∧ (seekAt 5).step = 5 := by decide

theorem witness_MismatchingM0RestartsTheSearch :
    (seekAt 1).enabled = true ∧ (seekAt 1).tseq = .idle ∧ (seekAt 1).phase = .seeking ∧ 1 ≤ (seekAt 1).step.val ∧
      (seekAt 1).build.m0Restart = true ∧ { seekAt 1 with build := noRestart }.build.m0Restart = false := by decide

theorem witness_OtherMismatchResetsTheSearch :
    (seekAt 0).enabled = true ∧ (seekAt 0).tseq = .idle ∧ (seekAt 0).phase = .seeking ∧
      (0xAD : Byte) ≠ Config.markerByte (seekAt 0).step ∧
      ¬ ((0xAD : Byte) = Config.markerByte 0 ∧ (seekAt 0).build.m0Restart = true) ∧ (seekAt 0).step = 0 ∧
      (seekAt 3).enabled = true ∧ (seekAt 3).tseq = .idle ∧ (seekAt 3).phase = .seeking ∧ (seekAt 3).step = 3 := by
  decide

theorem witness_PayloadByteIsStored :
    (copyAt 382).enabled = true ∧ (copyAt 382).tseq = .idle ∧ (copyAt 382).phase = .copying ∧
      (copyAt 382).writeOffset + 1 < (copyAt 382).build.capacity ∧
      Memory.wf (copyAt 382).build.capacity (copyAt 382).fb :=
  ⟨rfl, rfl, rfl, by decide, Memory.nil_wf _⟩

theorem witness_LastPayloadByteEndsTheCopy :
    (copyAt 383).enabled = true ∧ (copyAt 383).tseq = .idle ∧ (copyAt 383).phase = .copying ∧
      (copyAt 383).writeOffset + 1 = (copyAt 383).build.capacity ∧
      Memory.wf (copyAt 383).build.capacity (copyAt 383).fb :=
  ⟨rfl, rfl, rfl, by decide, Memory.nil_wf _⟩

theorem witness_LoaderControlFlow_good :
    (∀ k, Inv (seekAt k)) ∧ Inv { seekAt 1 with build := noRestart } ∧ Inv (copyAt 382) ∧ Inv (copyAt 383) :=
  ⟨good_seekAt, { good_seekAt 1 with }, good_copyAt (by decide), good_copyAt (by decide)⟩
theorem witness_LoaderControlFlow :
    (∃ t, acceptEvent (seekAt 0) (.rx 0xDE) = some t) ∧ (∃ t, acceptEvent (seekAt 5) (.rx 0x02) = some t) ∧
      (∃ t, acceptEvent (seekAt 1) (.rx 0xDE) = some t) ∧ (∃ t, acceptEvent (seekAt 1) (.rx 0x00) = some t) ∧
      (∃ t, acceptEvent { seekAt 1 with build := noRestart } (.rx 0xDE) = some t ∧ t.step = 0) ∧
      (∃ t, acceptEvent (copyAt 382) (.rx 0x00) = some t) ∧ (∃ t, acceptEvent (copyAt 383) (.rx 0x00) = some t) ∧
      (∃ t, acceptEvent (copyAt 9) .tick = some t) ∧ (∃ t, acceptEvent waiting0 .txdone = some t) ∧
      ∃ t, acceptEvent waiting1 .reset = some t :=
  ⟨⟨_, rfl⟩, ⟨_, rfl⟩, ⟨_, rfl⟩, ⟨_, rfl⟩, ⟨_, rfl, rfl⟩, ⟨_, rfl⟩, ⟨_, rfl⟩, ⟨_, rfl⟩, ⟨_, rfl⟩, _, rfl⟩

theorem witness_RecogniserTracksTheLongestPrefix_noMarker :
    State.reset.build.m0Restart = true ∧ State.reset.enabled = true ∧ State.reset.tseq = .idle ∧
      State.reset.phase = .seeking ∧ State.reset.step = 0 ∧ (∀ n < 3, ¬ Config.marker.toList <:+ [0xDE, 0xDE, 0xAD].take n) ∧
      ¬ Config.marker.toList <:+ [0xDE, 0xDE, 0xAD] ∧ Config.marker.toList.take 2 <:+ [0xDE, 0xDE, 0xAD] := by decide
theorem witness_RecogniserTracksTheLongestPrefix_marker :
    (∀ n < 7, ¬ Config.marker.toList <:+ [0xDE, 0xDE, 0xAD, 0xBE, 0xEF, 0x01, 0x02].take n) ∧
      Config.marker.toList <:+ [0xDE, 0xDE, 0xAD, 0xBE, 0xEF, 0x01, 0x02] := by decide

theorem witness_RecogniserAcceptsOnlyMarkers :
    let s := { State.reset with build := noRestart }
    s.enabled = true ∧ s.tseq = .idle ∧ s.phase = .seeking ∧ s.step = 0 ∧ s.build.m0Restart = false ∧
      (∃ t, acceptAll s ([0xDE, 0xAD].map .rx) = some t ∧ t.phase = .seeking) ∧
      ∀ n < 2, ∃ u, acceptAll s (([0xDE, 0xAD].take n).map .rx) = some u ∧ u.phase = .seeking := by
  refine ⟨rfl, rfl, rfl, rfl, rfl, ⟨_, rfl, rfl⟩, fun n hn => ?_⟩
  match n, hn with
  | 0, _ => exact ⟨_, rfl, rfl⟩
  | 1, _ => exact ⟨_, rfl, rfl⟩
theorem witness_RecogniserAcceptsOnlyMarkers_copy :
    (∃ t, acceptAll State.reset ([0xDE, 0xAD, 0xBE, 0xEF, 0x01, 0x02].map .rx) = some t ∧ t.phase = .copying) ∧
      ∀ n < 6, ∃ u, acceptAll State.reset (([0xDE, 0xAD, 0xBE, 0xEF, 0x01, 0x02].take n).map .rx) = some u ∧
        u.phase = .seeking := by
  refine ⟨⟨_, rfl, rfl⟩, fun n hn => ?_⟩
  interval_cases n <;> exact ⟨_, rfl, rfl⟩

theorem witness_CopyIsNotInterrupted :
    Inv (copyAt 381) ∧ (copyAt 381).phase = .copying ∧ Event.reset ∉ [Event.rx 0xDE, .tick, .txdone, .txdone, .rx 0xAD] ∧
      (copyAt 381).writeOffset + (receivedBytes [Event.rx 0xDE, .tick, .txdone, .txdone, .rx 0xAD]).length
        < (copyAt 381).build.capacity ∧
      ∃ t, acceptAll (copyAt 381) [.rx 0xDE, .tick, .txdone, .txdone, .rx 0xAD] = some t :=
  ⟨good_copyAt (by decide), rfl, by decide, by decide, _, rfl⟩

/-- A payload of one dark pair and 383 lit ones. -/
def samplePayload : List Byte := 0x00 :: List.replicate 383 0xFF

/-- The events of one frame. -/
def sampleFrame : List Event := (Config.marker.toList ++ samplePayload).map .rx

/-- Received bytes are accepted one after the other while no tick comes between. -/
theorem bytes_accepted (ds : List Byte) {s : State} (he : s.enabled = true) (hi : s.tseq = .idle)
    (hw : s.phase = .copying → s.writeOffset < s.build.capacity) (hb : 0 < s.build.capacity) :
    ∃ t, acceptAll s (ds.map .rx) = some t ∧ t.enabled = true ∧ t.tseq = .idle ∧
      (t.phase = .copying → t.writeOffset < t.build.capacity) ∧ 0 < t.build.capacity := by
  induction ds generalizing s with
  | nil => exact ⟨s, rfl, he, hi, hw, hb⟩
  | cons d ds ih =>
    have go : ∀ u, exec (operationOf s.mode (.rx d)) s = .next u → u.enabled = true → u.tseq = .idle →
        (u.phase = .copying → u.writeOffset < u.build.capacity) → 0 < u.build.capacity →
        ∃ t, acceptAll s ((d :: ds).map .rx) = some t ∧ t.enabled = true ∧ t.tseq = .idle ∧
          (t.phase = .copying → t.writeOffset < t.build.capacity) ∧ 0 < t.build.capacity := by
      intro u hu h1 h2 h3 h4
      obtain ⟨t, ht, hr⟩ := ih h1 h2 h3 h4
      have ha : acceptEvent s (.rx d) = some u := acceptEvent_of_next (by simp [State.admits, he, hi]) hu
      exact ⟨t, acceptAll_cons_eq_some.2 ⟨u, ha, ht⟩, hr⟩
    rcases receive_cases d he hi hw with ⟨h1, -, -, h⟩ | ⟨-, -, -, h⟩ | ⟨h1, -, -, h⟩ | ⟨h1, -, -, h⟩ | ⟨-, h2, h⟩ |
      ⟨-, -, h⟩
    · exact go _ h he hi hw hb
    · exact go _ h he hi (fun _ => hb) hb
    · exact go _ h he hi hw hb
    · exact go _ h he hi hw hb
    · exact go _ h he hi (fun _ => h2) hb
    · exact go _ h he hi (fun x => nomatch x) hb

theorem bytes_received (ds : List Byte) : receivedBytes (ds.map .rx) = ds ∧ Event.reset ∉ ds.map .rx := by
  refine ⟨?_, by simp⟩
  induction ds with
  | nil => rfl
  | cons d ds ih => exact congrArg (d :: ·) ih

theorem witness_WholeFrameReplacesTheBuffer :
    Inv State.reset ∧ State.reset.phase = .seeking ∧ State.reset.step = 0 ∧ Event.reset ∉ sampleFrame ∧
      samplePayload.length = State.reset.build.capacity ∧ receivedBytes sampleFrame = Config.marker.toList ++ samplePayload ∧
      ∃ t, acceptAll State.reset sampleFrame = some t :=
  ⟨good_reset, rfl, rfl, (bytes_received _).2, congrArg (· + 1) List.length_replicate, (bytes_received _).1,
    (bytes_accepted (Config.marker.toList ++ samplePayload) (s := State.reset) rfl rfl (fun x => nomatch x)
      (by decide)).imp
      fun _ h => h.1⟩

theorem witness_SameFrameTwiceSameBuffer :
    ∃ t u, acceptAll State.reset sampleFrame = some t ∧ acceptAll t sampleFrame = some u := by
  obtain ⟨t, ht, h1, h2, h3, h4⟩ := bytes_accepted (Config.marker.toList ++ samplePayload) (s := State.reset) rfl rfl
    (fun x => nomatch x) (by decide)
  obtain ⟨u, hu, -⟩ := bytes_accepted (Config.marker.toList ++ samplePayload) h1 h2 h3 h4
  exact ⟨t, u, ht, hu⟩

theorem witness_AdvanceMovesTheCursor :
    (cursorAt 47 14).row < (cursorAt 47 14).build.rows ∧ (cursorAt 47 14).level < Config.levels1 ∧
      (cursorAt 47 14).rowOffset = (cursorAt 47 14).row * 8 ∧ (cursorAt 47 13).level < 14 ∧
      (cursorAt 46 14).row + 1 < (cursorAt 46 14).build.rows := by
  decide

theorem witness_FetchReadsTheRowBlock :
    (cursorAt 47 0).rowOffset + 7 < (cursorAt 47 0).build.capacity ∧
      ∃ t u, exec .reset State.reset = .next t ∧ exec .tFetch t = .next u := ⟨by decide, _, _, rfl, rfl⟩

theorem witness_ThresholdDecidesEveryLane_row :
    (cursorAt 47 14).level < Config.levels1 ∧
      ∃ s, exec .tFetch (cursorAt 47 14) = .next s ∧
        ∀ (k : Nat) (h : k < 8), s.scratch.rb[k] = s.fb.byteAt (s.row * 8 + k) := by
  refine ⟨by decide, _, rfl, fun k h => ?_⟩
  interval_cases k <;> rfl
theorem witness_ThresholdDecidesEveryLane_example :
    let s := rowAt #v[0xA3, 0, 0, 0, 0, 0, 0, 0] 5
    s.level = 5 ∧ s.scratch.rb[0] = 0xA3 ∧ ∃ t, exec .tThresh s = .next t := ⟨rfl, rfl, _, rfl⟩

theorem witness_LaneIsOnAboveTheLevel : (14 : BitVec 4).toNat < 15 := by decide

theorem witness_SelectWritesThePorts : (cursorAt 47 0).row < (cursorAt 47 0).build.rows := by decide

theorem witness_TickIsItsSubSteps :
    (cursorAt 47 14).enabled = true ∧ (cursorAt 47 14).tseq = .idle ∧ (cursorAt 47 14).row < (cursorAt 47 14).build.rows ∧
      (cursorAt 47 14).rowOffset = (cursorAt 47 14).row * 8 ∧ waiting0.enabled = true ∧ waiting0.tseq ≠ .idle ∧
      ∃ t u, exec .reset State.reset = .next t ∧ exec .tick t = .next u :=
  ⟨rfl, rfl, by decide, rfl, rfl, by decide, _, _, rfl, rfl⟩

theorem witness_TickOutputsTheAdvancedRow :
    (cursorAt 47 14).enabled = true ∧ (cursorAt 47 14).tseq = .idle ∧ (cursorAt 47 14).row < (cursorAt 47 14).build.rows ∧
      (cursorAt 47 14).level < Config.levels1 ∧ (cursorAt 47 14).rowOffset = (cursorAt 47 14).row * 8 := by decide

theorem witness_FirstCompletionSendsTheSecondByte : waiting0.enabled = true ∧ waiting0.tseq = .wait0 := by decide

theorem witness_SecondCompletionLatchesTheRow :
    waiting1.enabled = true ∧ waiting1.tseq = .wait1 ∧ waiting1.row < waiting1.build.rows := by decide

theorem witness_CompletedTickOutputs : Inv (cursorAt 47 14) ∧ (cursorAt 47 14).tseq = .idle :=
  ⟨good_cursorAt (by decide) (by decide), rfl⟩

theorem witness_CursorRunsThroughTheCycle :
    Inv (cursorAt 47 14) ∧ Event.reset ∉ [Event.rx 0, .tick, .txdone, .txdone, .rx 0, .tick] ∧
      ∃ t, acceptAll (cursorAt 47 14) [.rx 0, .tick, .txdone, .txdone, .rx 0, .tick] = some t :=
  ⟨good_cursorAt (by decide) (by decide), by decide, _, rfl⟩

theorem witness_PixelIsLitForItsValue :
    Inv (cursorAt 47 14) ∧ (cursorAt 47 14).tseq = .idle ∧ (cursorAt 47 14).level = 14 ∧ 15 < Config.columns :=
  ⟨good_cursorAt (by decide) (by decide), rfl, rfl, by decide⟩

theorem witness_WrittenByteIsSeenByLaterTicks :
    Inv (copyAt 6) ∧ (copyAt 6).phase = .copying ∧ Event.reset ∉ [Event.rx 0x21, .tick, .txdone, .txdone] ∧
      (receivedBytes [Event.rx 0x21, .tick, .txdone, .txdone]).length < (copyAt 6).build.capacity + 6 ∧
      13 < Config.columns ∧
      ∃ u v t, acceptEvent (copyAt 6) (.rx 0xDE) = some u ∧ acceptAll u [.rx 0x21, .tick, .txdone, .txdone] = some v ∧
        storedOffsets u [.rx 0x21, .tick, .txdone, .txdone] = [7] ∧
        acceptEvent v .tick = some t ∧ t.row * 8 + 13 / 2 = (copyAt 6).writeOffset :=
  ⟨good_copyAt (by decide), rfl, by decide, by decide, by decide, _, _, _, rfl, rfl, rfl, rfl, rfl⟩
/-- With surplus bytes after the frame, one of them a marker byte. -/
theorem witness_WrittenByteIsSeenByLaterTicks_surplus :
    Inv (copyAt 383) ∧ ∃ u v, acceptEvent (copyAt 383) (.rx 0x21) = some u ∧
      acceptAll u [.rx 0xFF, .rx 0xDE] = some v ∧ storedOffsets u [.rx 0xFF, .rx 0xDE] = [] :=
  ⟨good_copyAt (by decide), _, _, rfl, rfl, rfl⟩

theorem witness_OnlyTicksMoveTheCursor :
    (∃ t, acceptEvent State.reset .tick = some t) ∧ (∃ t, acceptEvent waiting0 .txdone = some t) ∧
      (∃ t, acceptEvent waiting1 .txdone = some t) ∧ ∃ t, acceptEvent (copyAt 383) (.rx 0x21) = some t :=
  ⟨⟨_, rfl⟩, ⟨_, rfl⟩, ⟨_, rfl⟩, _, rfl⟩

theorem witness_PortsChangeInsideAStrobePulse :
    (∃ t, acceptEvent waiting1 .txdone = some t) ∧ ∃ t, acceptEvent State.reset (.rx 0xDE) = some t :=
  ⟨⟨_, rfl⟩, _, rfl⟩

theorem witness_SequencerIgnoresTheLoader :
    (∃ t, acceptEvent (copyAt 9) .tick = some t) ∧ ∃ t, acceptEvent waiting1 .txdone = some t := ⟨⟨_, rfl⟩, _, rfl⟩

theorem witness_LoaderIgnoresTheSequencer :
    (∃ t, acceptEvent (copyAt 383) (.rx 0x21) = some t) ∧ ∃ t, acceptEvent (seekAt 5) (.rx 0x02) = some t :=
  ⟨⟨_, rfl⟩, _, rfl⟩

end Sys2Proof.Tests
end

section
/-! The frame-buffer and unpacking primitives, one rule per primitive (40_framebuffer.md R110 to R113), and the
obligations of that family. -/

namespace Sys2Proof.Machine

/-! ## What each primitive does -/

theorem exec_fbRead_inside {s : State} {o : Nat} (h : o < s.build.capacity) :
    exec (.fbRead o) s = .next (s.giveResult (.byte (s.fb.byteAt o))) := by
  rw [exec, execFbRead, memRead_inside s h, orFault_ok]

theorem exec_fbWrite_inside {s : State} {o : Nat} (h : o < s.build.capacity) (d : Byte) :
    exec (.fbWrite o d) s = .next { s with fb := s.fb.setByte o d } := by
  rw [exec, execFbWrite, memWrite_inside s h, orFault_ok]

/-- A write that answers was inside the buffer. -/
theorem exec_fbWrite_eq_next {s t : State} {o : Nat} {d : Byte} (h : exec (.fbWrite o d) s = .next t) :
    o < s.build.capacity ∧ t = { s with fb := s.fb.setByte o d } := by
  by_cases ho : o < s.build.capacity
  · rw [exec_fbWrite_inside ho] at h
    exact ⟨ho, (Host.Outcome.next.inj h).symm⟩
  · rw [exec, execFbWrite, memWrite_outside s ho, orFault_error] at h
    cases h

theorem exec_pixLo (b : Byte) (s : State) : exec (.pixLo b) s = .next (s.giveResult (.pixel (pixLo b))) := rfl

theorem exec_pixHi (b : Byte) (s : State) : exec (.pixHi b) s = .next (s.giveResult (.pixel (pixHi b))) := rfl

/-- RESET keeps the build and leaves nothing listed in the buffer (70_reset_and_hazards.md R211). -/
theorem exec_reset_eq_next {s t : State} (h : exec .reset s = .next t) : t.build = s.build ∧ t.fb = [] := by
  rw [exec, execReset_result] at h
  cases h
  exact ⟨rfl, rfl⟩

/-! ## Reading back -/

/-- FB_READ in its operand form of a row and a byte of that row. -/
theorem exec_fbRead_row {s : State} {r k : Nat} (hr : r < s.build.rows) (hk : k < 8) :
    exec (.fbRead (r * 8 + k)) s = .next (s.giveResult (.byte (s.fb.byteAt (r * 8 + k)))) := by
  have block : r * 8 + 7 < s.build.capacity := rowBlock_inside hr rfl
  exact exec_fbRead_inside (by omega)

theorem exec_fbRead_after_fbWrite {s t : State} {o : Nat} {d : Byte} (hm : Memory.wf s.build.capacity s.fb)
    (h : exec (.fbWrite o d) s = .next t) : exec (.fbRead o) t = .next (t.giveResult (.byte d)) := by
  obtain ⟨ho, rfl⟩ := exec_fbWrite_eq_next h
  rw [exec_fbRead_inside (by exact ho), Memory.byteAt_setByte_same hm]

theorem exec_fbRead_after_reset {s t : State} {o : Nat} (ho : o < s.build.capacity) (h : exec .reset s = .next t) :
    exec (.fbRead o) t = .next (t.giveResult (.byte Config.resetByte)) := by
  obtain ⟨hb, hfb⟩ := exec_reset_eq_next h
  rw [exec_fbRead_inside (hb ▸ ho), hfb, Memory.byteAt_nil]

/-- The two pixels of a byte that was just written, by the row and the pair they stand in. -/
theorem pixels_setByte_same {cap : Nat} {m : Memory} (hm : Memory.wf cap m) (r k : Nat) (d : Byte) :
    (m.setByte (byteAddr r k) d).pixel r (2 * k) = pixLo d ∧
      (m.setByte (byteAddr r k) d).pixel r (2 * k + 1) = pixHi d := by
  have even : pixelAddr r (2 * k) = byteAddr r k := congrArg (byteAddr r) (by omega)
  have odd : pixelAddr r (2 * k + 1) = byteAddr r k := congrArg (byteAddr r) (by omega)
  rw [Memory.pixel, Memory.pixel, even, odd, Memory.byteAt_setByte_same hm]
  exact ⟨if_pos (by omega), if_neg (by omega)⟩

end Sys2Proof.Machine

/-! ## The obligations -/

open Sys2Proof Sys2Proof.Machine

/-- Settles O19: each clause is one of the rules of FB_READ, after the write and after RESET included. -/
theorem fbReadReturnsTheByte : Obligations.FbReadReturnsTheByte := by
  unfold Obligations.FbReadReturnsTheByte
  refine ⟨fun _ => rfl, fun s o ho => exec_fbRead_inside ho, fun s r k hr hk => exec_fbRead_row hr hk,
    fun s t o d hm hw => exec_fbRead_after_fbWrite hm hw, fun s t legal hreset => ?_⟩
  have inside : 0 < s.build.capacity := by
    rw [capacity_eq]
    omega
  exact exec_fbRead_after_reset inside hreset

/-- Settles O20, by read after write in a canonical memory and the pixel view of the written byte. -/
theorem fbWriteReplacesOneByte : Obligations.FbWriteReplacesOneByte := by
  unfold Obligations.FbWriteReplacesOneByte
  refine ⟨fun _ _ => rfl, fun s o d hm ho => ?_, fun s o hm ho => ?_, fun s t hm hw => ?_⟩
  · exact ⟨_, exec_fbWrite_inside ho d, Memory.byteAt_setByte_same hm o d,
      fun a ha => Memory.byteAt_setByte_other hm ha d, rfl⟩
  · rw [exec_fbWrite_inside ho, Memory.setByte_byteAt_self hm ho]
  · obtain ⟨-, rfl⟩ := exec_fbWrite_eq_next hw
    obtain ⟨first, second⟩ := pixels_setByte_same hm 0 0 0x0F
    exact ⟨first, second⟩

/-- Settles O21: the nibbles are the remainder and the quotient by 16. -/
theorem unpackingReturnsTheNibbles : Obligations.UnpackingReturnsTheNibbles := by
  unfold Obligations.UnpackingReturnsTheNibbles
  refine ⟨fun _ => ⟨rfl, rfl⟩, fun s b => ⟨pixLo b, pixLo_toNat b, exec_pixLo b s⟩,
    fun s b => ⟨pixHi b, pixHi_toNat b, exec_pixHi b s⟩, fun s => ⟨?_, ?_⟩⟩
  · exact exec_pixLo 0xA3 s
  · exact exec_pixHi 0xA3 s

end

section
/-! The row selector, one rule per bank (41_row_select.md R120 to R122), and the obligation of that family. -/

namespace Sys2Proof.Machine

/-! ## The pattern of a row, bank by bank -/

theorem selectWith_first {n1 row : Nat} (h : row < n1) (n2 shift : Nat) :
    selectWith n1 n2 shift row = ⟨0, row * 2 ^ shift⟩ := by
  have bank : bankOf n1 n2 row = 0 := if_pos h
  simp [selectWith, bank, bankBase, Nat.shiftLeft_eq]

theorem selectWith_second {n1 n2 row : Nat} (h1 : n1 ≤ row) (h2 : row < n2) (shift : Nat) :
    selectWith n1 n2 shift row = ⟨1, (row - n1) * 2 ^ shift⟩ := by
  have bank : bankOf n1 n2 row = 1 := (if_neg h1.not_gt).trans (if_pos h2)
  simp [selectWith, bank, bankBase, Nat.shiftLeft_eq]

theorem selectWith_third {n1 n2 row : Nat} (h1 : n1 ≤ row) (h2 : n2 ≤ row) (shift : Nat) :
    selectWith n1 n2 shift row = ⟨2, (row - n2) * 2 ^ shift⟩ := by
  have bank : bankOf n1 n2 row = 2 := (if_neg h1.not_gt).trans (if_neg h2.not_gt)
  simp [selectWith, bank, bankBase, Nat.shiftLeft_eq]

/-- The bank and the shifted offset of any row, whatever the bounds. -/
theorem selectWith_bank_sel (n1 n2 shift row : Nat) :
    (selectWith n1 n2 shift row).bank = (if row < n1 then 0 else if row < n2 then 1 else 2) ∧
      (selectWith n1 n2 shift row).sel =
        (if row < n1 then row else if row < n2 then row - n1 else row - n2) * 2 ^ shift := by
  by_cases h1 : row < n1
  · simp [selectWith_first h1, h1]
  · by_cases h2 : row < n2
    · simp [selectWith_second (not_lt.mp h1) h2, h1, h2]
    · simp [selectWith_third (not_lt.mp h1) (not_lt.mp h2), h1, h2]

/-! ## The enable lines -/

/-- Line `j` is low exactly at the active bank (30_encoding.md R88). -/
theorem enableLines_getLsbD (e : Enpat) {j : Nat} (hj : j < 3) :
    (enableLines e).getLsbD j = decide (j ≠ e.bank.val) := by
  have lines : ∀ k : Fin 3, ∀ j < 3, (~~~ ((1 : BitVec 3) <<< k.val)).getLsbD j = decide (j ≠ k.val) := by decide
  exact lines e.bank j hj

/-! ## SELECT and its corner rows -/

theorem exec_select_inside {s : State} {r : Nat} (h : r < s.build.rows) :
    exec (.select r) s = .next (s.giveResult (.enpat (selectRow s.build r))) := if_pos h

theorem selectRow_zero (b : Build) : selectRow b 0 = ⟨0, 0⟩ := by
  rw [selectRow, selectWith_first b.bankN1_pos, Nat.zero_mul]

theorem selectRow_last {b : Build} (h : b.legal) :
    selectRow b (b.rows - 1) = ⟨2, (b.rows - 1 - b.bankN2) * 2 ^ Config.selShift⟩ := by
  have h1 := b.bankN1_lt_bankN2
  have h2 := Build.bankN2_lt_rows h
  exact selectWith_third (by omega) (by omega) _

/-- The first bank ends at row `N1 - 1` and the second begins at row `N1`. -/
theorem selectRow_bank_at_boundary (b : Build) :
    (selectRow b (b.bankN1 - 1)).bank = 0 ∧ (selectRow b b.bankN1).bank = 1 := by
  have h := b.bankN1_pos
  rw [selectRow, selectRow, selectWith_first (show b.bankN1 - 1 < b.bankN1 by omega),
    selectWith_second le_rfl b.bankN1_lt_bankN2]
  exact ⟨rfl, rfl⟩

end Sys2Proof.Machine

/-! ## The obligation -/

open Sys2Proof Sys2Proof.Machine

/-- Settles O26: a row lies in one of three banks, the legal bounds place the corner rows, and the example is
evaluated. -/
theorem selectReturnsTheBankAndOffset : Obligations.SelectReturnsTheBankAndOffset := by
  unfold Obligations.SelectReturnsTheBankAndOffset
  refine ⟨fun _ => rfl, fun s r hr => exec_select_inside hr,
    fun b row => selectWith_bank_sel b.bankN1 b.bankN2 Config.selShift row, fun e j hj => enableLines_getLsbD e hj,
    fun b legal => ⟨selectRow_zero b, selectRow_last legal, ?_⟩, by decide, by decide⟩
  obtain ⟨below, above⟩ := selectRow_bank_at_boundary b
  rw [below, above]
  decide

end

section
/-! The loader, one rule per kind of received byte: matched, mismatching, payload, last payload (42_ingestion.md R131,
R134, R135, R138), and the obligations of that family. -/

namespace Sys2Proof.Machine

/-! ## Which operation a received byte performs -/

theorem operationOf_rx_matched {m : DecodeMode} (hp : m.phase = .seeking) :
    operationOf m (.rx (Config.markerByte m.step)) = markerOperation m.step := by
  simp only [operationOf, loaderOperation, hp, if_true]

theorem markerOperation_ne_rxMiss (k : Fin 6) (d : Byte) : markerOperation k ≠ .rxMiss d := by
  match k with
  | 0 | 1 | 2 | 3 | 4 | 5 => exact nofun

/-- A seeking loader misses exactly the bytes that neither match nor restart the search (42_ingestion.md R138). -/
theorem operationOf_rx_eq_rxMiss_iff {m : DecodeMode} (hp : m.phase = .seeking) (d : Byte) :
    operationOf m (.rx d) = .rxMiss d ↔
      d ≠ Config.markerByte m.step ∧ ¬ (d = Config.markerByte 0 ∧ m.build.m0Restart = true) := by
  simp only [operationOf, loaderOperation, hp]
  split
  · next matched => exact iff_of_false (markerOperation_ne_rxMiss m.step d) fun h => h.1 matched
  · next mismatch =>
    split
    · next restart => exact iff_of_false nofun fun h => h.2 restart
    · next miss => exact iff_of_true rfl ⟨mismatch, miss⟩

theorem operationOf_rx_copying {m : DecodeMode} (hp : m.phase = .copying) (d : Byte) :
    operationOf m (.rx d) = if m.writeOffset + 1 < m.build.capacity then .rxCopy d else .rxCopyLast d := by
  simp only [operationOf, loaderOperation, hp]

/-! ## What the operation does -/

theorem stepTo_of_step_eq {s : State} {k : Fin 6} (h : s.step = k) : s.stepTo k = s := h ▸ rfl

/-- What a received byte does while the loader seeks (42_ingestion.md R131 to R133, R138). -/
theorem exec_rx_seeking {s : State} (he : s.enabled = true) (hi : s.tseq = .idle) (hp : s.phase = .seeking) (d : Byte) :
    exec (operationOf s.mode (.rx d)) s = .next
      (if d = Config.markerByte s.step then if s.step.val < 5 then s.stepTo (s.step + 1) else s.enterCopying
       else if d = Config.markerByte 0 ∧ s.build.m0Restart = true then s.stepTo 1 else s.stepTo 0) := by
  have seeking : s.phase ≠ .copying := fun copying => nomatch hp.symm.trans copying
  obtain ⟨-, matched, inner, e⟩ | ⟨-, matched, last, e⟩ | ⟨-, mismatch, restart, e⟩ | ⟨-, mismatch, miss, e⟩ |
    ⟨copying, -⟩ | ⟨copying, -⟩ := receive_cases d he hi fun copying => absurd copying seeking
  · rw [e, if_pos matched, if_pos inner]
  · rw [e, if_pos matched, if_neg last.not_lt]
  · rw [e, if_neg mismatch, if_pos restart]
  · rw [e, if_neg mismatch, if_neg miss]
  · exact absurd copying seeking
  · exact absurd copying seeking

/-- A matched marker byte other than the last moves `step` by one (42_ingestion.md R131). -/
theorem receive_matched {s : State} {k : Fin 6} (he : s.enabled = true) (hi : s.tseq = .idle)
    (hp : s.phase = .seeking) (hk : s.step = k) (h5 : k.val < 5) :
    operationOf s.mode (.rx (Config.markerByte k)) = markerOperation k ∧
      exec (markerOperation k) s = .next (s.stepTo (k + 1)) := by
  subst hk
  have operation := operationOf_rx_matched (m := s.mode) hp
  have effect := exec_rx_seeking he hi hp (Config.markerByte s.step)
  rw [if_pos rfl, if_pos h5] at effect
  exact ⟨operation, operation ▸ effect⟩

/-- A byte that neither matches nor restarts sets `step` to 0 (42_ingestion.md R138). -/
theorem receive_missed {s : State} {d : Byte} (he : s.enabled = true) (hi : s.tseq = .idle) (hp : s.phase = .seeking)
    (hd : d ≠ Config.markerByte s.step) (h0 : ¬ (d = Config.markerByte 0 ∧ s.build.m0Restart = true)) :
    operationOf s.mode (.rx d) = .rxMiss d ∧ exec (.rxMiss d) s = .next (s.stepTo 0) := by
  have operation : operationOf s.mode (.rx d) = .rxMiss d := (operationOf_rx_eq_rxMiss_iff hp d).2 ⟨hd, h0⟩
  have effect := exec_rx_seeking he hi hp d
  rw [if_neg hd, if_neg h0, operation] at effect
  exact ⟨operation, effect⟩

/-- A stored payload byte stands at `writeOffset`, and every other offset reads as before (42_ingestion.md R134). -/
theorem copyResult_byteAt {s : State} (hm : Memory.wf s.build.capacity s.fb) (d : Byte) :
    (s.copyResult d).fb.byteAt s.writeOffset = d ∧
      ∀ a, a ≠ s.writeOffset → (s.copyResult d).fb.byteAt a = s.fb.byteAt a :=
  ⟨Memory.byteAt_setByte_same hm _ d, fun _ ha => Memory.byteAt_setByte_other hm ha d⟩

end Sys2Proof.Machine

/-! ## The obligations -/

open Sys2Proof Sys2Proof.Machine

/-- Settles O29: each clause is the rule of a matched byte at one of the first five positions; at step 0 the byte 0xAD
is a miss under either value of M0_RESTART. -/
theorem markerByteMovesTheStep : Obligations.MarkerByteMovesTheStep := by
  unfold Obligations.MarkerByteMovesTheStep
  refine ⟨fun s he hi hp => ?_, by decide, fun b w => ⟨?_, ?_⟩⟩
  · have moves := fun k : Fin 6 => receive_matched (k := k) he hi hp
    exact ⟨(moves 0 · (by decide)), (moves 1 · (by decide)), (moves 2 · (by decide)), (moves 3 · (by decide)),
      (moves 4 · (by decide))⟩
  · exact operationOf_rx_matched rfl
  · have mismatch : (0xAD : Byte) ≠ Config.markerByte 0 := by decide
    exact (operationOf_rx_eq_rxMiss_iff rfl _).2 ⟨mismatch, fun restart => mismatch restart.1⟩

/-- Settles O32, by the condition of RX.MISS and the rule of a missed byte. -/
theorem otherMismatchResetsTheSearch : Obligations.OtherMismatchResetsTheSearch := by
  unfold Obligations.OtherMismatchResetsTheSearch
  refine ⟨fun s d he hi hp hd h0 => ?_, fun m d hp => operationOf_rx_eq_rxMiss_iff hp d, fun d => rfl,
    fun s he hi hp hk => ?_⟩
  · obtain ⟨operation, resets⟩ := receive_missed he hi hp hd h0
    exact ⟨operation, resets, fun hz => resets.trans (congrArg _ (stepTo_of_step_eq hz))⟩
  · have mismatch : (0xEE : Byte) ≠ Config.markerByte 3 := by decide
    have noRestart : (0xEE : Byte) ≠ Config.markerByte 0 := by decide
    obtain ⟨-, resets⟩ := receive_missed he hi hp (hk ▸ mismatch) fun restart => noRestart restart.1
    exact resets

/-- Settles O33: the byte is stored inside the buffer, and a canonical memory reads it back. -/
theorem payloadByteIsStored : Obligations.PayloadByteIsStored := by
  unfold Obligations.PayloadByteIsStored
  intro s d he hi hp hw hm
  obtain ⟨stored, kept⟩ := copyResult_byteAt hm d
  exact ⟨rfl, (operationOf_rx_copying hp d).trans (if_pos hw), s.copyResult d, execRxCopy_accepted he hi hp hw,
    stored, kept, rfl, rfl⟩

/-- Settles O34: the store is the one of O33 at the last offset, and the phase changes in the same step. -/
theorem lastPayloadByteEndsTheCopy : Obligations.LastPayloadByteEndsTheCopy := by
  unfold Obligations.LastPayloadByteEndsTheCopy
  intro s d he hi hp hw hm
  obtain ⟨stored, kept⟩ := copyResult_byteAt hm d
  have last : s.build.capacity - 1 = s.writeOffset := by omega
  rw [last]
  exact ⟨rfl, (operationOf_rx_copying hp d).trans (if_neg hw.not_lt), { s.copyResult d with phase := .seeking },
    execRxCopyLast_accepted he hi hp hw, stored, kept, hw, rfl, rfl⟩

end

section
/-! The refresh sequencer, one rule per sub-step of TICK (43_refresh.md R150 to R157), the strobe (R160, R162), and the
obligations of that family. -/

namespace Sys2Proof.Machine

/-! ## What each sub-step does -/

theorem exec_tFetch_inside {s : State} (h : s.rowOffset + 7 < s.build.capacity) :
    exec .tFetch s = .next (s.latchRow (s.fb.rowAt s.rowOffset)) := fetchRow_inside s h

theorem exec_tThresh_inside {s : State} (h : s.level < Config.levels1) :
    exec .tThresh s = .next (s.latchLanes (laneDecisions s.scratch.rb s.level)) := thresholdRow_inside s h

theorem exec_driveStrobe (s : State) :
    exec .tStbHi s = .next (s.driveStrobe true) ∧ exec .tStbLo s = .next (s.driveStrobe false) := ⟨rfl, rfl⟩

/-- RESET puts the cursor at its start and empties the trace (70_reset_and_hazards.md R214). -/
theorem exec_reset_cursor_and_trace {s t : State} (h : exec .reset s = .next t) :
    t.row = 0 ∧ t.level = 0 ∧ t.trace = [] := by
  rw [exec, execReset_result] at h
  cases h
  exact ⟨rfl, rfl, rfl⟩

/-! ## The lanes of a row -/

/-- Byte `j` of a row decides lanes `2j` and `2j + 1`, the low nibble first (43_refresh.md R154). -/
theorem laneDecisions_pair (rb : Vector Byte 8) (l : Nat) {j : Nat} (h : j < 8) :
    (laneDecisions rb l)[2 * j] = laneGt (pixLo rb[j]) l ∧
      (laneDecisions rb l)[2 * j + 1] = laneGt (pixHi rb[j]) l := by
  have even : 2 * j / 2 = j := by omega
  have odd : (2 * j + 1) / 2 = j := by omega
  rw [laneDecisions_getElem _ _ _ (by omega), laneDecisions_getElem _ _ _ (by omega)]
  simp [even, odd, pixelOf]

/-- For the row-block of row `r`, lane `c` decides on pixel `(r, c)` (43_refresh.md R154). -/
theorem laneDecisions_of_row {m : Memory} {rb : Vector Byte 8} {r : Nat}
    (fetched : ∀ (k : Nat) (h : k < 8), rb[k] = m.byteAt (r * 8 + k)) (l : Nat) {c : Nat} (h : c < 16) :
    (laneDecisions rb l)[c] = laneGt (m.pixel r c) l := by
  rw [laneDecisions_getElem _ _ _ h, fetched (c / 2) (by omega)]
  rfl

/-! ## TICK -/

@[simp] theorem advanceCursor_trace (s : State) : s.advanceCursor.trace = s.trace := by rw [advanceCursor_frame]

theorem advanceCursor_level_lt (s : State) : s.advanceCursor.level < Config.levels1 := by
  rw [advanceCursor_level]
  exact nextLevel_lt _

/-- The advanced cursor stands on a row-block inside the buffer (10_state.md R44, I1 and I3). -/
theorem advanceCursor_rowBlock_inside {s : State} (hr : s.row < s.build.rows)
    (ho : s.rowOffset = s.row * Config.bytesPerRow) :
    s.advanceCursor.rowOffset + 7 < s.advanceCursor.build.capacity := by
  have row : s.advanceCursor.row < s.advanceCursor.build.rows := by
    rw [advanceCursor_row, advanceCursor_build]
    exact nextRow_lt _ hr
  exact rowBlock_inside row (advanceCursor_rowOffset s ho)

/-- An accepted TICK performs its sub-steps in order, and the transients end with it (43_refresh.md R150). -/
theorem exec_tick_idle {s : State} (he : s.enabled = true) (hi : s.tseq = .idle) :
    exec .tick s =
      andThen (exec .tAdvance s) fun a => andThen (exec .tFetch a) fun b => andThen (exec .tThresh b) fun c =>
      andThen (exec .tPack c) fun d => andThen (exec .tTx0 d) fun t => .next t.dropTransients := by
  rw [exec, execTick, afterReset_enabled he, if_neg (not_not.2 hi)]
  rfl

theorem exec_tick_busy {s : State} (he : s.enabled = true) (hb : s.tseq ≠ .idle) :
    exec .tick s = .refused .tickWhileBusy := by
  rw [exec, execTick, afterReset_enabled he, if_pos hb]

/-- A blank row lights every lane at every threshold: 15 is above each of them. -/
theorem laneDecisions_blank (o : Nat) {l : Nat} (h : l < Config.levels1) :
    laneDecisions (Memory.rowAt [] o) l = Vector.replicate 16 true := by
  refine Vector.ext fun c hc => ?_
  have full : pixelOf Config.resetByte c = 15 := by
    unfold pixelOf
    split <;> rfl
  rw [laneDecisions_getElem _ _ _ hc, Memory.rowAt_getElem, Memory.byteAt_nil, full, Vector.getElem_replicate]
  exact decide_eq_true h

theorem pack_allLanesOn :
    packLow (Vector.replicate 16 true) = 0xFF ∧ packHigh (Vector.replicate 16 true) = 0xFF := by decide

theorem tickResult_outputs_blank {s : State} (h : s.fb = []) : s.tickResult.ob0 = 0xFF ∧ s.tickResult.ob1 = 0xFF := by
  have hfb : s.advanceCursor.fb = [] := by rw [advanceCursor_frame, h]
  have lanes := laneDecisions_blank s.advanceCursor.rowOffset (advanceCursor_level_lt s)
  simp only [State.tickResult, hfb, lanes]
  exact pack_allLanesOn

end Sys2Proof.Machine

/-! ## The obligations -/

open Sys2Proof Sys2Proof.Machine

/-- Settles O49: the cursor's invariants keep the fetch inside the buffer and the level a threshold, so each sub-step
answers the next one's state; the example is the first tick after RESET. -/
theorem tickIsItsSubSteps : Obligations.TickIsItsSubSteps := by
  unfold Obligations.TickIsItsSubSteps
  refine ⟨rfl, fun s he hi hr ho => ?_, fun s he hb => exec_tick_busy he hb, fun s t u hreset htick => ?_⟩
  · have fetch := exec_tFetch_inside (advanceCursor_rowBlock_inside hr ho)
    have thresh rb := exec_tThresh_inside (s := s.advanceCursor.latchRow rb) (advanceCursor_level_lt s)
    refine ⟨_, _, _, _, _, rfl, fetch, thresh _, rfl, rfl, ?_, rfl, ?_⟩
    · rw [exec_tick_idle he hi, show exec .tAdvance s = .next s.advanceCursor from rfl, andThen_next, fetch,
        andThen_next, thresh]
      rfl
    · exact congrArg (· ++ _) (advanceCursor_trace s)
  · obtain ⟨-, -, -, rfl⟩ := execTick_eq_next htick
    obtain ⟨-, blank⟩ := exec_reset_eq_next hreset
    obtain ⟨row, level, trace⟩ := exec_reset_cursor_and_trace hreset
    obtain ⟨low, high⟩ := tickResult_outputs_blank blank
    rw [tickResult_row, tickResult_level, tickResult_trace, low, high, row, level, trace]
    exact ⟨rfl, rfl, rfl, rfl, rfl, rfl⟩

/-- Settles O42: the latched row is the row-block at `rowOffset`, and after RESET nothing is listed in the buffer. -/
theorem fetchReadsTheRowBlock : Obligations.FetchReadsTheRowBlock := by
  unfold Obligations.FetchReadsTheRowBlock
  refine ⟨rfl, fun s h => ⟨_, exec_tFetch_inside h, fun k hk => Memory.rowAt_getElem _ _ k hk⟩,
    fun s t u hreset hfetch k hk => ?_⟩
  obtain ⟨-, blank⟩ := exec_reset_eq_next hreset
  obtain ⟨-, rfl⟩ := fetchRow_eq_next hfetch
  calc (t.fb.rowAt t.rowOffset)[k]
      = t.fb.byteAt (t.rowOffset + k) := Memory.rowAt_getElem _ _ k hk
    _ = 0xFF := by rw [blank, Memory.byteAt_nil]; rfl

/-- Settles O43, by the decisions of a byte's two lanes and of a fetched row's pixels; in the example 3 and 10 stand
against level 5. -/
theorem thresholdDecidesEveryLane : Obligations.ThresholdDecidesEveryLane := by
  unfold Obligations.ThresholdDecidesEveryLane
  refine ⟨rfl, fun s hl => ⟨_, exec_tThresh_inside hl, fun j hj => laneDecisions_pair _ _ hj,
    fun fetched c hc => laneDecisions_of_row fetched _ hc⟩, fun s t hlevel hbyte h => ?_⟩
  obtain ⟨-, rfl⟩ := thresholdRow_eq_next h
  obtain ⟨lane0, lane1⟩ := laneDecisions_pair s.scratch.rb s.level (j := 0) (by decide)
  rw [hlevel, hbyte] at lane0 lane1
  rw [State.latchLanes_scratch, hlevel]
  exact ⟨lane0, lane1⟩

/-- Settles O47: driving the strobe sets the line and says so on the trace. -/
theorem strobeRisesAndFalls : Obligations.StrobeRisesAndFalls := by
  unfold Obligations.StrobeRisesAndFalls
  exact ⟨rfl, rfl, exec_driveStrobe⟩

end

section
/-! The fill of RESET as the writes of its loop (70_reset_and_hazards.md R211), and the obligation of that family. -/

namespace Sys2Proof.Machine

/-- One byte written to a list of offsets, in their order: the loop of R.FILL over the offsets `os`. -/
def Memory.setEach (m : Memory) (os : List Nat) (v : Byte) : Memory := os.foldl (fun m o => m.setByte o v) m

@[simp] theorem Memory.setEach_nil (m : Memory) (v : Byte) : m.setEach [] v = m := rfl

@[simp] theorem Memory.setEach_cons (m : Memory) (o : Nat) (os : List Nat) (v : Byte) :
    m.setEach (o :: os) v = (m.setByte o v).setEach os v := rfl

theorem Memory.setEach_wf {cap : Nat} {m : Memory} (hm : Memory.wf cap m) {os : List Nat} (inside : ∀ o ∈ os, o < cap)
    (v : Byte) : Memory.wf cap (m.setEach os v) := by
  induction os generalizing m with
  | nil => exact hm
  | cons o os ih =>
    obtain ⟨first, rest⟩ := List.forall_mem_cons.1 inside
    exact ih (Memory.setByte_wf hm first v) rest

/-- Reading after the loop: the written byte at each listed offset, the old byte elsewhere. -/
theorem Memory.byteAt_setEach {m : Memory} (hm : m.Pairwise fun c d => c.1 < d.1) (os : List Nat) (v : Byte) (a : Nat) :
    (m.setEach os v).byteAt a = if a ∈ os then v else m.byteAt a := by
  induction os generalizing m with
  | nil => simp
  | cons o os ih =>
    rw [Memory.setEach_cons, ih (Memory.setByte_rising hm o v), Memory.byteAt_setByte hm]
    by_cases here : a = o <;> by_cases later : a ∈ os <;> simp [here, later]

/-- The loop over a whole buffer leaves the memory that lists nothing, since outside it nothing was listed before. -/
theorem Memory.setEach_range_resetByte {cap : Nat} {m : Memory} (hm : Memory.wf cap m) :
    m.setEach (List.range cap) Config.resetByte = [] := by
  have filled := Memory.setEach_wf hm (fun _ => List.mem_range.1) Config.resetByte
  refine Memory.ext_of_byteAt filled (Memory.nil_wf cap) fun a => ?_
  rw [Memory.byteAt_setEach hm.1, Memory.byteAt_nil]
  split
  · rfl
  · next outside => exact Memory.byteAt_outside hm (not_lt.1 (outside ∘ List.mem_range.2))

theorem exec_rFill (s : State) : exec .rFill s = .next s.fillBuffer := rfl

end Sys2Proof.Machine

/-! ## The obligation -/

open Sys2Proof Sys2Proof.Machine

/-- Settles O16: the filled buffer lists nothing, so every byte reads as the reset byte, and the loop leaves the same
memory. -/
theorem fillLightsEveryPixel : Obligations.FillLightsEveryPixel := by
  unfold Obligations.FillLightsEveryPixel
  exact ⟨rfl, fun s => ⟨s.fillBuffer, exec_rFill s, fun o _ => Memory.byteAt_nil o, by decide, rfl,
    fun hm => (Memory.setEach_range_resetByte hm).symm⟩⟩

end

section
/-! Words and operations (30_encoding.md R90 to R95): an event's word decodes to its operation, and a selected operation
is read back from its word. The obligations on the encoding. -/

namespace Sys2Proof

/-! ## Decoding the word of an event, or of one of its sub-steps -/

theorem decode_ev10_encodeEvent (m : DecodeMode) (e : Event) :
    decode m (.ev10 (encodeEvent e)) = .ok (operationOf m e) := by
  rw [decode, decodeEvent_encodeEvent]
  rfl

theorem decode_sub_encodeEvent (m : DecodeMode) (e : Event) (k : Nat) :
    decode m (.sub (encodeEvent e) k) = decodeSub m k e := by
  rw [decode, decodeEvent_encodeEvent]
  rfl

/-- A word is rejected exactly if it is no RX word and its low byte is not 0 (30_encoding.md R92). -/
theorem decodeEvent_eq_reserved_iff (w : EvWord) :
    decodeEvent w = .error (.reservedWord w) ↔ evKind w ≠ 2 ∧ evByte w ≠ 0 := by
  refine ⟨fun h => (decodeEvent_error h).2, fun ⟨kind, byte⟩ => ?_⟩
  rw [decodeEvent, if_neg kind, if_pos byte]

/-! ## The operation of an event, where the operation is selected -/

theorem operationOf_txdone_wait0 {m : DecodeMode} (h : m.tseq = .wait0) : operationOf m .txdone = .txdoneW0 := by
  simp only [operationOf, h]

theorem operationOf_txdone_wait1 {m : DecodeMode} (h : m.tseq = .wait1) : operationOf m .txdone = .txdoneW1 := by
  simp only [operationOf, h]

theorem operationOf_rx_marker {m : DecodeMode} {k : Fin 6} (hp : m.phase = .seeking) (hk : m.step = k) :
    operationOf m (.rx (Config.markerByte k)) = markerOperation k := by
  subst hk
  exact Machine.operationOf_rx_matched hp

theorem operationOf_rx_restart {m : DecodeMode} (hp : m.phase = .seeking)
    (mismatch : Config.markerByte 0 ≠ Config.markerByte m.step) (hr : m.build.m0Restart = true) :
    operationOf m (.rx (Config.markerByte 0)) = .rxRestart := by
  simp only [operationOf, loaderOperation, hp]
  rw [if_neg mismatch, if_pos ⟨trivial, hr⟩]

/-- An operation with a word of its own is the one its word performs, wherever it is selected (30_encoding.md R91). -/
theorem operationOf_of_selectedIn {m : DecodeMode} {i : Instr} {e : Event} (hw : encode i = .ev10 (encodeEvent e))
    (hs : i.selectedIn m = true) : operationOf m e = i := by
  have reads {e' : Event} (word : encode i = .ev10 (encodeEvent e')) (op : operationOf m e' = i) :
      operationOf m e = i := by
    have same : encodeEvent e = encodeEvent e' := CodeWord.ev10.inj (hw.symm.trans word)
    have event : e = e' := by
      have := decodeEvent_encodeEvent e
      rw [same, decodeEvent_encodeEvent] at this
      exact (Except.ok.inj this).symm
    exact event ▸ op
  cases i <;> simp only [Instr.selectedIn, Bool.and_eq_true, decide_eq_true_eq] at hs
  case reset => exact reads (e' := .reset) rfl rfl
  case tick => exact reads (e' := .tick) rfl rfl
  case txdoneW0 => exact reads (e' := .txdone) rfl (operationOf_txdone_wait0 hs)
  case txdoneW1 => exact reads (e' := .txdone) rfl (operationOf_txdone_wait1 hs)
  case rxM0 => exact reads (e' := .rx 0xDE) rfl (operationOf_rx_marker (k := 0) hs.1.2 hs.2)
  case rxM1 => exact reads (e' := .rx 0xAD) rfl (operationOf_rx_marker (k := 1) hs.1.2 hs.2)
  case rxM2 => exact reads (e' := .rx 0xBE) rfl (operationOf_rx_marker (k := 2) hs.1.2 hs.2)
  case rxM3 => exact reads (e' := .rx 0xEF) rfl (operationOf_rx_marker (k := 3) hs.1.2 hs.2)
  case rxM4 => exact reads (e' := .rx 0x01) rfl (operationOf_rx_marker (k := 4) hs.1.2 hs.2)
  case rxM5 => exact reads (e' := .rx 0x02) rfl (operationOf_rx_marker (k := 5) hs.1.2 hs.2)
  case rxRestart =>
    obtain ⟨⟨⟨⟨-, seeking⟩, -⟩, mismatch⟩, restart⟩ := hs
    exact reads (e' := .rx 0xDE) rfl (operationOf_rx_restart seeking mismatch restart)
  case rxMiss d =>
    obtain ⟨⟨⟨-, seeking⟩, mismatch⟩, noRestart⟩ := hs
    refine reads (e' := .rx d) rfl ((Machine.operationOf_rx_eq_rxMiss_iff seeking d).2 ⟨mismatch, fun restart => ?_⟩)
    simp [restart] at noRestart
  case rxCopy d =>
    obtain ⟨⟨-, copying⟩, inside⟩ := hs
    exact reads (e' := .rx d) rfl ((Machine.operationOf_rx_copying copying d).trans (if_pos inside))
  case rxCopyLast d =>
    obtain ⟨⟨-, copying⟩, last⟩ := hs
    exact reads (e' := .rx d) rfl ((Machine.operationOf_rx_copying copying d).trans (if_neg last.not_lt))
  all_goals nomatch hw

/-- The operation of an event has the event's word. -/
theorem encode_operationOf (m : DecodeMode) (e : Event) : encode (operationOf m e) = .ev10 (encodeEvent e) := by
  cases e with
  | reset => rfl
  | tick => rfl
  | txdone => cases h : m.tseq <;> simp only [operationOf, h] <;> rfl
  | rx d =>
    cases hp : m.phase with
    | copying =>
      rw [Machine.operationOf_rx_copying hp]
      split <;> rfl
    | seeking =>
      by_cases matched : d = Config.markerByte m.step
      · subst matched
        rw [Machine.operationOf_rx_matched hp]
        generalize m.step = k
        match k with
        | 0 | 1 | 2 | 3 | 4 | 5 => rfl
      · by_cases restart : d = Config.markerByte 0 ∧ m.build.m0Restart = true
        · obtain ⟨rfl, hr⟩ := restart
          rw [operationOf_rx_restart hp matched hr]
          rfl
        · rw [(Machine.operationOf_rx_eq_rxMiss_iff hp d).2 ⟨matched, restart⟩]
          rfl

theorem markerOperation_selectedIn {m : DecodeMode} (hi : m.tseq = .idle) (hp : m.phase = .seeking) :
    (markerOperation m.step).selectedIn m = true := by
  have run : ∀ k : Fin 6, m.step = k → (markerOperation k).selectedIn m = true := by
    intro k hk
    match k, hk with
    | 0, hk | 1, hk | 2, hk | 3, hk | 4, hk | 5, hk => simp [markerOperation, Instr.selectedIn, hi, hp, hk]
  exact run m.step rfl

/-- A byte the state accepts performs a selected operation (30_encoding.md R91). -/
theorem selectedIn_operationOf_rx {m : DecodeMode} (hi : m.tseq = .idle)
    (hw : m.phase = .copying → m.writeOffset < m.build.capacity) (d : Byte) :
    (operationOf m (.rx d)).selectedIn m = true := by
  cases hp : m.phase with
  | copying =>
    have inside := hw hp
    rw [Machine.operationOf_rx_copying hp]
    split
    · next more => simp only [Instr.selectedIn, hi, hp, more, decide_true, Bool.and_self]
    · next last =>
      have full : m.writeOffset + 1 = m.build.capacity := by omega
      simp only [Instr.selectedIn, hi, hp, full, decide_true, Bool.and_self]
  | seeking =>
    by_cases matched : d = Config.markerByte m.step
    · subst matched
      rw [Machine.operationOf_rx_matched hp]
      exact markerOperation_selectedIn hi hp
    · by_cases restart : d = Config.markerByte 0 ∧ m.build.m0Restart = true
      · obtain ⟨rfl, hr⟩ := restart
        rw [operationOf_rx_restart hp matched hr]
        have later : 1 ≤ m.step.val := by
          rcases Nat.eq_zero_or_pos m.step.val with start | later
          · exact absurd (congrArg Config.markerByte (Fin.ext start).symm) matched
          · exact later
        simp [Instr.selectedIn, hi, hp, hr, later, matched]
      · rw [(Machine.operationOf_rx_eq_rxMiss_iff hp d).2 ⟨matched, restart⟩]
        simp only [Instr.selectedIn, hi, hp]
        simpa [matched, imp_iff_not_or] using restart

/-! ## Reading an operation back from its word -/

/-- An operation with a word of its own is read back from it. -/
theorem decode_encode_of_event {m : DecodeMode} {i : Instr} {e : Event} (hw : encode i = .ev10 (encodeEvent e))
    (hs : i.selectedIn m = true) : decode m (encode i) = .ok i := by
  rw [hw, decode_ev10_encodeEvent, operationOf_of_selectedIn hw hs]

/-- A sub-step is read back from its owner's word and its number. -/
theorem decode_encode_of_subStep {m : DecodeMode} {i owner : Instr} {e : Event} {n : Nat}
    (hw : encode i = .sub (encodeEvent e) (n + 1)) (ho : operationOf m e = owner) (hn : (subSteps owner)[n]? = some i) :
    decode m (encode i) = .ok i := by
  rw [hw, decode_sub_encodeEvent, decodeSub, ho, hn]

theorem inDomain_of_wellFormed {b : Build} {i : Instr} (h : i.wellFormed b = true) : inDomain b i = .ok i := if_pos h

/-- An offset and a byte, written one after the other, are read back. -/
theorem decode_fbWrite (m : DecodeMode) (o : Nat) (d : Byte) :
    decode m (.fbWrite (o * 256 + d.toNat)) = inDomain m.build (.fbWrite o d) := by
  have offset : (o * 256 + d.toNat) / 256 = o := by omega
  have byte : BitVec.ofNat 8 (o * 256 + d.toNat) = d := BitVec.eq_of_toNat_eq (by simp; omega)
  rw [decode, offset, byte]

/-- A row and a column, written one after the other, are read back. -/
theorem decode_fbPixel (m : DecodeMode) (r : Nat) (c : BitVec 4) :
    decode m (.fbPixel (r * 16 + c.toNat)) = inDomain m.build (.fbPixel r c) := by
  have row : (r * 16 + c.toNat) / 16 = r := by omega
  have column : BitVec.ofNat 4 (r * 16 + c.toNat) = c := BitVec.eq_of_toNat_eq (by simp; omega)
  rw [decode, row, column]

/-- Two values of four bits, in one byte, are read back. -/
theorem decode_pixPack (m : DecodeMode) (hi lo : Pixel) :
    decode m (.pixPack (hi ++ lo)) = inDomain m.build (.pixPack hi lo) := by
  rw [decode, upperField_append, lowerField_append]

@[inherit_doc decode_pixPack] theorem decode_laneGt (m : DecodeMode) (v l : BitVec 4) :
    decode m (.laneGt (v ++ l)) = inDomain m.build (.laneGt v l) := by
  rw [decode, upperField_append, lowerField_append]

/-- A selected, well-formed operation is read back from its word (30_encoding.md R95). -/
theorem decode_encode {m : DecodeMode} {i : Instr} (hf : i.wellFormed m.build = true) (hs : i.selectedIn m = true) :
    decode m (encode i) = .ok i := by
  cases i
  case reset => exact decode_encode_of_event (e := .reset) rfl hs
  case tick => exact decode_encode_of_event (e := .tick) rfl hs
  case txdoneW0 | txdoneW1 => exact decode_encode_of_event (e := .txdone) rfl hs
  case rxM0 => exact decode_encode_of_event (e := .rx 0xDE) rfl hs
  case rxM1 => exact decode_encode_of_event (e := .rx 0xAD) rfl hs
  case rxM2 => exact decode_encode_of_event (e := .rx 0xBE) rfl hs
  case rxM3 => exact decode_encode_of_event (e := .rx 0xEF) rfl hs
  case rxM4 => exact decode_encode_of_event (e := .rx 0x01) rfl hs
  case rxM5 => exact decode_encode_of_event (e := .rx 0x02) rfl hs
  case rxRestart => exact decode_encode_of_event (e := .rx 0xDE) rfl hs
  case rxMiss d | rxCopy d | rxCopyLast d => exact decode_encode_of_event (e := .rx d) rfl hs
  case rFill => exact decode_encode_of_subStep (e := .reset) (n := 0) rfl rfl rfl
  case rInit => exact decode_encode_of_subStep (e := .reset) (n := 1) rfl rfl rfl
  case rEnable => exact decode_encode_of_subStep (e := .reset) (n := 2) rfl rfl rfl
  case tAdvance => exact decode_encode_of_subStep (e := .tick) (n := 0) rfl rfl rfl
  case tFetch => exact decode_encode_of_subStep (e := .tick) (n := 1) rfl rfl rfl
  case tThresh => exact decode_encode_of_subStep (e := .tick) (n := 2) rfl rfl rfl
  case tPack => exact decode_encode_of_subStep (e := .tick) (n := 3) rfl rfl rfl
  case tTx0 => exact decode_encode_of_subStep (e := .tick) (n := 4) rfl rfl rfl
  case tTx1 =>
    exact decode_encode_of_subStep (e := .txdone) (n := 0) rfl (operationOf_txdone_wait0 (of_decide_eq_true hs)) rfl
  case tStbHi =>
    exact decode_encode_of_subStep (e := .txdone) (n := 0) rfl (operationOf_txdone_wait1 (of_decide_eq_true hs)) rfl
  case tSel =>
    exact decode_encode_of_subStep (e := .txdone) (n := 1) rfl (operationOf_txdone_wait1 (of_decide_eq_true hs)) rfl
  case tStbLo =>
    exact decode_encode_of_subStep (e := .txdone) (n := 2) rfl (operationOf_txdone_wait1 (of_decide_eq_true hs)) rfl
  case fbRead o | pixLo b | pixHi b | select r => exact inDomain_of_wellFormed hf
  case fbWrite o d => exact (decode_fbWrite m o d).trans (inDomain_of_wellFormed hf)
  case pixPack hi lo => exact (decode_pixPack m hi lo).trans (inDomain_of_wellFormed hf)
  case fbPixel r c => exact (decode_fbPixel m r c).trans (inDomain_of_wellFormed hf)
  case laneGt v l => exact (decode_laneGt m v l).trans (inDomain_of_wellFormed hf)

end Sys2Proof

/-! ## The obligations -/

open Sys2Proof Sys2Proof.Machine

/-- Settles O3, by the three formats: event words, sub-steps of an owner, and operand fields read back. -/
theorem decodeEncodeAgree : Obligations.DecodeEncodeAgree := by
  unfold Obligations.DecodeEncodeAgree
  exact fun _ _ => decode_encode

/-- Settles O4: the chosen operation is selected, and every selected operation with that word is the chosen one. -/
theorem eachEventPerformsOneOperation : Obligations.EachEventPerformsOneOperation := by
  unfold Obligations.EachEventPerformsOneOperation
  intro m e hw hidle hbusy
  refine ⟨?_, encode_operationOf m e, fun j word selected => (operationOf_of_selectedIn word selected).symm⟩
  cases e with
  | reset => rfl
  | tick => exact decide_eq_true (hidle (.inl rfl))
  | rx d => exact selectedIn_operationOf_rx (hidle (.inr ⟨d, rfl⟩)) hw d
  | txdone =>
    cases ht : m.tseq with
    | idle => exact absurd ht (hbusy rfl)
    | wait0 => rw [operationOf_txdone_wait0 ht]; exact decide_eq_true ht
    | wait1 => rw [operationOf_txdone_wait1 ht]; exact decide_eq_true ht

/-- Settles O1: each word is decoded. -/
theorem sampleWordsDecode : Obligations.SampleWordsDecode := by
  unfold Obligations.SampleWordsDecode
  decide

/-- Settles O2: decoding and encoding of events invert each other, and only the reserved words are rejected. -/
theorem eventWordsRoundTrip : Obligations.EventWordsRoundTrip := by
  unfold Obligations.EventWordsRoundTrip
  exact ⟨fun w e => ⟨encodeEvent_of_decodeEvent, fun h => h ▸ decodeEvent_encodeEvent e⟩, decodeEvent_eq_reserved_iff⟩

end

section
/-! What a step takes and what is refused or held (60_exceptions.md R183, R184), and the obligations on the step. -/

namespace Sys2Proof.Machine

/-! ## Taking the next event -/

theorem isRxWord_encodeEvent_rx (d : Byte) : isRxWord (encodeEvent (.rx d)) = true :=
  (isRxWord_encodeEvent _).2 ⟨d, rfl⟩

/-- Held bytes stay in front of whatever is taken behind them. -/
theorem takeEvent_rxWords_append (ds : List Byte) (ws : List EvWord) :
    takeEvent true (rxWords ds ++ ws) = (takeEvent true ws).map fun p => (p.1, rxWords ds ++ p.2) := by
  induction ds with
  | nil => simp [rxWords]
  | cons d ds ih =>
    have held : (true && isRxWord (encodeEvent (.rx d))) = true := isRxWord_encodeEvent_rx d
    have first : rxWords (d :: ds) = encodeEvent (.rx d) :: rxWords ds := rfl
    rw [first, List.cons_append, takeEvent_held held, ih, Option.map_map]
    rfl

theorem step_of_nextEvent_none {s : State} (h : s.nextEvent = none) : step s = .next s := by
  rw [step, h]

theorem step_of_decode {s : State} {w : EvWord} {rest : List EvWord} {i : Instr} (h : s.nextEvent = some (w, rest))
    (hd : decode s.mode (.ev10 w) = .ok i) : step s = exec i { s with input := rest } := by
  rw [step, h]
  simp only [hd]

theorem nextEvent_of_held {s : State} (hh : s.holdsRx = true) {ds : List Byte} {ws : List EvWord}
    (h : s.input = rxWords ds ++ ws) :
    s.nextEvent = (takeEvent true ws).map fun p => (p.1, rxWords ds ++ p.2) := by
  rw [State.nextEvent, hh, h, takeEvent_rxWords_append]

/-- The word that a step takes was offered. -/
theorem mem_input_of_nextEvent {s : State} {w : EvWord} {rest : List EvWord} (h : s.nextEvent = some (w, rest)) :
    w ∈ s.input := by
  obtain ⟨-, held, input, -⟩ := takeEvent_eq_some h
  rw [input]
  simp

/-! ## The loader's operations are accepted, held or refused alike -/

/-- The ten operations of the loader, with one operand. -/
def loaderOperations (d : Byte) : List Instr :=
  [.rxM0, .rxM1, .rxM2, .rxM3, .rxM4, .rxM5, .rxRestart, .rxMiss d, .rxCopy d, .rxCopyLast d]

theorem exec_loader {i : Instr} {d : Byte} (h : i ∈ loaderOperations d) (s : State) :
    ∃ mnemonic k, exec i s = acceptRx s i mnemonic k := by
  simp only [loaderOperations, List.mem_cons, List.not_mem_nil, or_false] at h
  rcases h with rfl | rfl | rfl | rfl | rfl | rfl | rfl | rfl | rfl | rfl <;> exact ⟨_, _, rfl⟩

theorem operationOf_rx_mem (m : DecodeMode) (d : Byte) : operationOf m (.rx d) ∈ loaderOperations d := by
  have markers : ∀ k : Fin 6, markerOperation k ∈ loaderOperations d := by
    intro k
    match k with
    | 0 | 1 | 2 | 3 | 4 | 5 => simp [markerOperation, loaderOperations]
  simp only [operationOf, loaderOperation]
  split
  · split
    · exact markers m.step
    · split <;> simp [loaderOperations]
  · split <;> simp [loaderOperations]

theorem exec_loader_held {s : State} {i : Instr} {d : Byte} (h : i ∈ loaderOperations d) (he : s.enabled = true)
    (hb : s.tseq ≠ .idle) : exec i s = .next s := by
  obtain ⟨mnemonic, k, e⟩ := exec_loader h s
  rw [e, acceptRx_held i he hb]

/-! ## Refusals -/

theorem exec_txdone_idle {s : State} (he : s.enabled = true) (hi : s.tseq = .idle) :
    exec (operationOf s.mode .txdone) s = .refused .txdoneWhileIdle := by
  have operation : operationOf s.mode .txdone = .txdoneW0 := by simp only [operationOf, State.mode, hi]
  rw [operation, exec, execTxdoneW0, afterReset_enabled he, hi]

/-- Before the first RESET no other event has a meaning (70_reset_and_hazards.md R217). -/
theorem exec_operationOf_beforeReset {s : State} {e : Event} (hd : s.enabled = false) (he : e ≠ .reset) :
    exec (operationOf s.mode e) s = .refused .beforeReset := by
  cases e with
  | reset => exact absurd rfl he
  | tick => exact afterReset_disabled hd _
  | txdone => cases h : s.tseq <;> simp only [operationOf, State.mode, h] <;> exact afterReset_disabled hd _
  | rx d =>
    obtain ⟨mnemonic, k, e⟩ := exec_loader (operationOf_rx_mem s.mode d) s
    rw [e, acceptRx, afterReset_disabled hd]

theorem step_reserved {s : State} {w : EvWord} {rest : List EvWord} (h : s.input = w :: rest) (kind : evKind w ≠ 2)
    (byte : evByte w ≠ 0) : step s = .refused (.reservedWord w) := by
  have free : (s.holdsRx && isRxWord w) = false := by rw [isRxWord, decide_eq_false kind, Bool.and_false]
  have reserved := (decodeEvent_eq_reserved_iff w).2 ⟨kind, byte⟩
  rw [step, State.nextEvent, h, takeEvent_free free]
  simp only [decode, reserved, Except.map]

end Sys2Proof.Machine

/-! ## The obligations -/

open Sys2Proof Sys2Proof.Machine

/-- Settles O6: the bytes in front are held, so what stands behind them decides what is taken. -/
theorem heldBytesLetTheCompletionPass : Obligations.HeldBytesLetTheCompletionPass := by
  unfold Obligations.HeldBytesLetTheCompletionPass
  refine ⟨fun s ds w rest i hh hin hw hd => ?_, fun s ds hh hin => ?_, fun s hin => ?_⟩
  · have free : (true && isRxWord w) = false := hw
    have taken : s.nextEvent = some (w, rxWords ds ++ rest) := by
      rw [nextEvent_of_held hh hin, takeEvent_free free, Option.map_some]
    exact step_of_decode taken hd
  · have allHeld : s.input = rxWords ds ++ [] := hin.trans (List.append_nil _).symm
    exact step_of_nextEvent_none (by rw [nextEvent_of_held hh allHeld, takeEvent_nil, Option.map_none])
  · exact step_of_nextEvent_none (by rw [State.nextEvent, hin, takeEvent_nil])

/-- Settles O5: a word that is not held is the one taken. -/
theorem stepRunsTheDecodedOperation : Obligations.StepRunsTheDecodedOperation := by
  unfold Obligations.StepRunsTheDecodedOperation
  intro s w rest i hin free hd
  exact step_of_decode (by rw [State.nextEvent, hin, takeEvent_free free]) hd

/-- Settles O7: each clause is one of the refusals. -/
theorem eventsWithoutMeaningAreRefused : Obligations.EventsWithoutMeaningAreRefused := by
  unfold Obligations.EventsWithoutMeaningAreRefused
  exact ⟨fun s => exec_tick_busy, fun s => exec_txdone_idle, fun s e => exec_operationOf_beforeReset,
    fun s w rest => step_reserved⟩

/-- Settles O8: the ten operations are the loader's, and a busy block holds them. -/
theorem heldByteChangesNothing : Obligations.HeldByteChangesNothing := by
  unfold Obligations.HeldByteChangesNothing
  exact fun s d he hb i hi => exec_loader_held (d := d) hi he hb

end

section
/-! What each event does, as a function of the state, and the invariant it keeps (10_state.md R44). The obligations on
the invariant, on faults and on refusals. -/

namespace Sys2Proof.Machine

/-! ## The state after a received byte -/

/-- The state after an accepted byte (42_ingestion.md R143). -/
def State.received (s : State) (d : Byte) : State :=
  match s.phase with
  | .seeking =>
    if d = Config.markerByte s.step then if s.step.val < 5 then s.stepTo (s.step + 1) else s.enterCopying
    else if d = Config.markerByte 0 ∧ s.build.m0Restart = true then s.stepTo 1 else s.stepTo 0
  | .copying =>
    if s.writeOffset + 1 < s.build.capacity then s.copyResult d else { s.copyResult d with phase := .seeking }

theorem received_seeking {s : State} (hp : s.phase = .seeking) (d : Byte) :
    s.received d = if d = Config.markerByte s.step then if s.step.val < 5 then s.stepTo (s.step + 1) else s.enterCopying
      else if d = Config.markerByte 0 ∧ s.build.m0Restart = true then s.stepTo 1 else s.stepTo 0 := by
  simp only [State.received, hp]

theorem received_copying {s : State} (hp : s.phase = .copying) (d : Byte) :
    s.received d = if s.writeOffset + 1 < s.build.capacity then s.copyResult d
      else { s.copyResult d with phase := .seeking } := by
  simp only [State.received, hp]

theorem received_matched {s : State} (hp : s.phase = .seeking) (h5 : s.step.val < 5) :
    s.received (Config.markerByte s.step) = s.stepTo (s.step + 1) := by
  rw [received_seeking hp, if_pos rfl, if_pos h5]

theorem received_lastMarker {s : State} (hp : s.phase = .seeking) (h5 : s.step = 5) :
    s.received (Config.markerByte 5) = s.enterCopying := by
  rw [received_seeking hp, h5, if_pos rfl, if_neg (by decide)]

theorem received_restart {s : State} {d : Byte} (hp : s.phase = .seeking) (mismatch : d ≠ Config.markerByte s.step)
    (restart : d = Config.markerByte 0 ∧ s.build.m0Restart = true) : s.received d = s.stepTo 1 := by
  rw [received_seeking hp, if_neg mismatch, if_pos restart]

theorem received_missed {s : State} {d : Byte} (hp : s.phase = .seeking) (mismatch : d ≠ Config.markerByte s.step)
    (miss : ¬ (d = Config.markerByte 0 ∧ s.build.m0Restart = true)) : s.received d = s.stepTo 0 := by
  rw [received_seeking hp, if_neg mismatch, if_neg miss]

theorem received_payload {s : State} (hp : s.phase = .copying) (more : s.writeOffset + 1 < s.build.capacity)
    (d : Byte) : s.received d = s.copyResult d := by
  rw [received_copying hp, if_pos more]

theorem received_lastPayload {s : State} (hp : s.phase = .copying) (last : s.writeOffset + 1 = s.build.capacity)
    (d : Byte) : s.received d = { s.copyResult d with phase := .seeking } := by
  rw [received_copying hp, if_neg last.not_lt]

/-- The step after the first five is the last. -/
theorem step_eq_five {k : Fin 6} (h : ¬ k.val < 5) : k = 5 :=
  Fin.ext (Nat.le_antisymm (Nat.le_of_lt_succ k.isLt) (Nat.le_of_not_lt h))

/-- A received byte touches the loader, the buffer and the trace only. -/
theorem received_frame (s : State) (d : Byte) :
    s.received d = { s with fb := (s.received d).fb, phase := (s.received d).phase, step := (s.received d).step,
                            writeOffset := (s.received d).writeOffset, trace := (s.received d).trace } := by
  unfold State.received
  split
  · split
    · split <;> rfl
    · split <;> rfl
  · split <;> rfl

@[simp] theorem received_build (s : State) (d : Byte) : (s.received d).build = s.build := by rw [received_frame]
@[simp] theorem received_ports (s : State) (d : Byte) : (s.received d).ports = s.ports := by rw [received_frame]
@[simp] theorem received_strobe (s : State) (d : Byte) : (s.received d).strobe = s.strobe := by rw [received_frame]

theorem exec_rx_received {s : State} (he : s.enabled = true) (hi : s.tseq = .idle)
    (hw : s.phase = .copying → s.writeOffset < s.build.capacity) (d : Byte) :
    exec (operationOf s.mode (.rx d)) s = .next (s.received d) := by
  cases hp : s.phase with
  | seeking => rw [exec_rx_seeking he hi hp, received_seeking hp]
  | copying =>
    have inside := hw hp
    rw [operationOf_rx_copying (m := s.mode) hp, received_copying hp]
    split
    · next more => exact (execRxCopy_accepted he hi hp more).trans (congrArg _ (if_pos more).symm)
    · next last =>
      have last' : s.writeOffset + 1 = s.build.capacity :=
        Nat.le_antisymm inside (Nat.le_of_not_lt last)
      exact (execRxCopyLast_accepted he hi hp last').trans (congrArg _ (if_neg last).symm)

/-! ## Accepted events -/

theorem admits_rx_iff {s : State} {d : Byte} : s.admits (.rx d) = true ↔ s.enabled = true ∧ s.tseq = .idle := by
  simp [State.admits]

/-- A byte is accepted exactly when idle with the copy inside the buffer, and leaves the received state. -/
theorem acceptEvent_rx_iff {s t : State} {d : Byte} :
    acceptEvent s (.rx d) = some t ↔
      s.enabled = true ∧ s.tseq = .idle ∧ (s.phase = .copying → s.writeOffset < s.build.capacity) ∧
        t = s.received d := by
  constructor
  · intro h
    obtain ⟨ha, hx⟩ := acceptEvent_eq_some h
    obtain ⟨he, hi⟩ := admits_rx_iff.1 ha
    have hw := acceptEvent_rx_inside h
    rw [exec_rx_received he hi hw] at hx
    exact ⟨he, hi, hw, (Host.Outcome.next.inj hx).symm⟩
  · rintro ⟨he, hi, hw, rfl⟩
    exact acceptEvent_of_next (admits_rx_iff.2 ⟨he, hi⟩) (exec_rx_received he hi hw d)

theorem acceptEvent_rx_seeking {s : State} (he : s.enabled = true) (hi : s.tseq = .idle) (hp : s.phase = .seeking)
    (d : Byte) : acceptEvent s (.rx d) = some (s.received d) :=
  acceptEvent_rx_iff.2 ⟨he, hi, fun copying => (nomatch hp.symm.trans copying), rfl⟩

/-- The state after RESET (70_reset_and_hazards.md R215). -/
def State.resetResult (s : State) : State :=
  { State.resetOf s.build with ports := s.build.freePorts s.draws, draws := s.draws + 1, input := s.input }

theorem exec_reset (s : State) : exec .reset s = .next s.resetResult := execReset_result s

theorem acceptEvent_reset (s : State) : acceptEvent s .reset = some s.resetResult :=
  acceptEvent_of_next rfl (exec_reset s)

/-! ## The invariant is kept -/

theorem freePorts_fit (b : Build) (draw : Nat) : portsFit b.portW (b.freePorts draw) :=
  ⟨BitVec.isLt _, BitVec.isLt _, BitVec.isLt _⟩

theorem inv_resetOf {b : Build} (h : b.legal) : Inv (State.resetOf b) where
  build := h
  enabled := rfl
  row := by simp only [State.resetOf]; omega
  level := Nat.zero_lt_succ _
  rowOffset := rfl
  step := nofun
  offset := Nat.zero_le _
  copying := nofun
  strobe := rfl
  countTx := rfl
  countSel := rfl
  countLow := rfl
  memory := Memory.nil_wf _
  ports := freePorts_fit _ _
  scratch := rfl

theorem inv_resetResult {s : State} (h : s.build.legal) : Inv s.resetResult :=
  { inv_resetOf h with ports := freePorts_fit _ _ }

/-- The offered events are no part of the invariant. -/
theorem Inv.withInput {s : State} (h : Inv s) (ws : List EvWord) : Inv { s with input := ws } := { h with }

theorem Inv.stepTo {s : State} (h : Inv s) (hp : s.phase = .seeking) (k : Fin 6) : Inv (s.stepTo k) :=
  { h with step := fun copying => (nomatch hp.symm.trans copying) }

theorem Inv.capacity_pos {s : State} (h : Inv s) : 0 < s.build.capacity := by
  have := h.build
  rw [capacity_eq]
  omega

@[simp] theorem countTx_append (a b : List OutEvent) : countTx (a ++ b) = countTx a + countTx b :=
  List.countP_append
@[simp] theorem countStb_append (high : Bool) (a b : List OutEvent) :
    countStb high (a ++ b) = countStb high a + countStb high b := List.countP_append
@[simp] theorem countSel_append (a b : List OutEvent) : countSel (a ++ b) = countSel a + countSel b :=
  List.countP_append
@[simp] theorem countInd_append (a b : List OutEvent) : countInd (a ++ b) = countInd a + countInd b :=
  List.countP_append

/-- Output events that carry two bytes for each rise of the strobe, and as many port writes and falls as rises, keep
the counts of the trace (10_state.md R44, I8). -/
theorem inv_counts_append {s : State} (h : Inv s) {es : List OutEvent} {w : TSeq}
    (tx : pendingTx s.tseq + countTx es = 2 * countStb true es + pendingTx w)
    (sel : countSel es = countStb true es) (low : countStb false es = countStb true es) :
    countTx (s.trace ++ es) = 2 * countStb true (s.trace ++ es) + pendingTx w ∧
      countSel (s.trace ++ es) = countStb true (s.trace ++ es) ∧
      countStb false (s.trace ++ es) = countStb true (s.trace ++ es) := by
  have tx₀ := h.countTx
  have sel₀ := h.countSel
  have low₀ := h.countLow
  simp only [countTx_append, countStb_append, countSel_append]
  omega

theorem Inv.enterCopying {s : State} (h : Inv s) : Inv s.enterCopying := by
  obtain ⟨tx, sel, low⟩ := inv_counts_append h (es := [.ind]) (w := s.tseq) (Nat.add_comm _ _) rfl rfl
  exact { h with
    step := fun _ => rfl
    offset := Nat.zero_le _
    copying := fun _ => h.capacity_pos
    countTx := tx
    countSel := sel
    countLow := low }

theorem Inv.copyResult {s : State} (h : Inv s) (more : s.writeOffset + 1 < s.build.capacity) (d : Byte) :
    Inv (s.copyResult d) :=
  { h with
    offset := Nat.le_of_lt more
    copying := fun _ => more
    memory := Memory.setByte_wf h.memory (by omega) d }

theorem Inv.copyResult_last {s : State} (h : Inv s) (last : s.writeOffset + 1 = s.build.capacity) (d : Byte) :
    Inv { s.copyResult d with phase := .seeking } :=
  { h with
    step := nofun
    offset := Nat.le_of_eq last
    copying := nofun
    memory := Memory.setByte_wf h.memory (by omega) d }

theorem Inv.received {s : State} (h : Inv s) (d : Byte) : Inv (s.received d) := by
  cases hp : s.phase with
  | seeking =>
    rw [received_seeking hp]
    split
    · split
      · exact h.stepTo hp _
      · exact h.enterCopying
    · split
      · exact h.stepTo hp _
      · exact h.stepTo hp _
  | copying =>
    have inside := h.copying hp
    rw [received_copying hp]
    split
    · next more => exact h.copyResult more d
    · next last => exact h.copyResult_last (by omega) d

/-- The row of an advanced cursor is inside the grid, and `rowOffset` stays its first byte (10_state.md R44, I1, I3). -/
theorem Inv.advanceCursor_rowBlock {s : State} (h : Inv s) : s.advanceCursor.rowOffset + 7 < s.build.capacity := by
  have := advanceCursor_rowBlock_inside h.row h.rowOffset
  rwa [advanceCursor_build] at this

@[simp] theorem tickResult_build (s : State) : s.tickResult.build = s.build := by rw [tickResult_frame]

theorem tickResult_rowOffset {s : State} (h : s.rowOffset = s.row * Config.bytesPerRow) :
    s.tickResult.rowOffset = s.tickResult.row * Config.bytesPerRow := advanceCursor_rowOffset s h

theorem Inv.tickResult {s : State} (h : Inv s) (hi : s.tseq = .idle) : Inv s.tickResult := by
  obtain ⟨tx, sel, low⟩ := inv_counts_append h (es := [.tx s.tickResult.ob0]) (w := .wait0) (by rw [hi]; rfl) rfl rfl
  have row : s.tickResult.row < s.build.rows := by
    rw [tickResult_row]
    exact nextRow_lt _ h.row
  have level : s.tickResult.level < Config.levels1 := by
    rw [tickResult_level]
    exact nextLevel_lt _
  have rowOffset := tickResult_rowOffset h.rowOffset
  rw [← tickResult_trace] at tx sel low
  rw [tickResult_frame]
  exact { h with
    row := row, level := level, rowOffset := rowOffset, countTx := tx, countSel := sel, countLow := low,
    scratch := rfl }

theorem Inv.transmitSecond {s : State} (h : Inv s) (hw : s.tseq = .wait0) : Inv (s.transmit s.ob1 .wait1) := by
  obtain ⟨tx, sel, low⟩ := inv_counts_append h (es := [.tx s.ob1]) (w := .wait1) (by rw [hw]; rfl) rfl rfl
  exact { h with countTx := tx, countSel := sel, countLow := low }

theorem Inv.latchResult {s : State} (h : Inv s) (hw : s.tseq = .wait1) : Inv s.latchResult := by
  obtain ⟨tx, sel, low⟩ := inv_counts_append h
    (es := [.stb true, .sel (portEncode s.build (selectRow s.build s.row)), .stb false]) (w := .idle) (by rw [hw]; rfl)
    rfl rfl
  exact { h with
    strobe := rfl, countTx := tx, countSel := sel, countLow := low, ports := portEncode_fits s.build _ }

/-! ## What an event does in a good state -/

theorem exec_txdone_wait0 {s : State} (he : s.enabled = true) (hw : s.tseq = .wait0) :
    exec (operationOf s.mode .txdone) s = .next (s.transmit s.ob1 .wait1) := by
  rw [operationOf_txdone_wait0 (m := s.mode) hw]
  exact execTxdoneW0_waiting he hw

theorem exec_txdone_wait1 {s : State} (he : s.enabled = true) (hw : s.tseq = .wait1) (hr : s.row < s.build.rows) :
    exec (operationOf s.mode .txdone) s = .next s.latchResult := by
  rw [operationOf_txdone_wait1 (m := s.mode) hw]
  exact execTxdoneW1_waiting he hw hr

/-- An event the contract allows is served and leaves a good state (60_exceptions.md R197). -/
theorem Inv.exec_admitted {s : State} {e : Event} (h : Inv s) (ha : s.admits e = true) :
    ∃ t, exec (operationOf s.mode e) s = .next t ∧ Inv t := by
  cases e with
  | reset => exact ⟨_, exec_reset s, inv_resetResult h.build⟩
  | tick =>
    have hi : s.tseq = .idle := by simpa [State.admits, h.enabled] using ha
    exact ⟨_, execTick_inside h.enabled hi h.advanceCursor_rowBlock, h.tickResult hi⟩
  | rx d =>
    obtain ⟨he, hi⟩ := admits_rx_iff.1 ha
    exact ⟨_, exec_rx_received he hi h.copying d, h.received d⟩
  | txdone =>
    have hb : s.tseq ≠ .idle := by simpa [State.admits, h.enabled] using ha
    cases hw : s.tseq with
    | idle => exact absurd hw hb
    | wait0 => exact ⟨_, exec_txdone_wait0 h.enabled hw, h.transmitSecond hw⟩
    | wait1 => exact ⟨_, exec_txdone_wait1 h.enabled hw h.row, h.latchResult hw⟩

/-- An event the contract does not allow is a held byte, a tick too early or a completion nothing asked for. -/
theorem Inv.exec_not_admitted {s : State} {e : Event} (h : Inv s) (ha : s.admits e = false) :
    exec (operationOf s.mode e) s = .next s ∨
    (e = .tick ∧ s.tseq ≠ .idle ∧ exec (operationOf s.mode e) s = .refused .tickWhileBusy) ∨
    (e = .txdone ∧ s.tseq = .idle ∧ exec (operationOf s.mode e) s = .refused .txdoneWhileIdle) := by
  cases e with
  | reset => cases ha
  | tick =>
    have hb : s.tseq ≠ .idle := by simpa [State.admits, h.enabled] using ha
    exact .inr (.inl ⟨rfl, hb, exec_tick_busy h.enabled hb⟩)
  | rx d =>
    have hb : s.tseq ≠ .idle := by simpa [State.admits, h.enabled] using ha
    exact .inl (exec_loader_held (operationOf_rx_mem s.mode d) h.enabled hb)
  | txdone =>
    have hi : s.tseq = .idle := by simpa [State.admits, h.enabled] using ha
    exact .inr (.inr ⟨rfl, hi, exec_txdone_idle h.enabled hi⟩)

/-- What a step of a good state can do: lead to a good state, or one of three refusals. -/
theorem inv_step_cases {s : State} (h : Inv s) :
    (∃ t, step s = .next t ∧ Inv t) ∨
    (step s = .refused .tickWhileBusy ∧ s.tseq ≠ .idle ∧ encodeEvent .tick ∈ s.input) ∨
    (step s = .refused .txdoneWhileIdle ∧ s.tseq = .idle ∧ encodeEvent .txdone ∈ s.input) ∨
    (∃ w ∈ s.input, step s = .refused (.reservedWord w) ∧ evKind w ≠ 2 ∧ evByte w ≠ 0) := by
  obtain ⟨-, waits⟩ | ⟨w, rest, taken, reserved, refused⟩ | ⟨e, rest, taken, performs⟩ := step_cases s
  · exact .inl ⟨s, waits, h⟩
  · obtain ⟨-, kind, byte⟩ := decodeEvent_error reserved
    exact .inr (.inr (.inr ⟨w, mem_input_of_nextEvent taken, refused, kind, byte⟩))
  · have offered := mem_input_of_nextEvent taken
    have h' := h.withInput rest
    rw [performs]
    cases ha : s.admits e with
    | true => exact .inl (h'.exec_admitted ha)
    | false =>
      obtain held | ⟨rfl, hb, refused⟩ | ⟨rfl, hi, refused⟩ := h'.exec_not_admitted ha
      · exact .inl ⟨_, held, h'⟩
      · exact .inr (.inl ⟨refused, hb, offered⟩)
      · exact .inr (.inr (.inl ⟨refused, hi, offered⟩))

theorem Inv.accepts {s : State} {e : Event} (h : Inv s) (ha : s.admits e = true) :
    ∃ t, acceptEvent s e = some t ∧ Inv t := by
  obtain ⟨t, ht, good⟩ := h.exec_admitted ha
  exact ⟨t, acceptEvent_of_next ha ht, good⟩

theorem Inv.after_event {s t : State} {e : Event} (h : Inv s) (hx : acceptEvent s e = some t) : Inv t := by
  obtain ⟨u, hu, good⟩ := h.accepts (acceptEvent_eq_some hx).1
  rw [hx] at hu
  exact Option.some.inj hu ▸ good

theorem Inv.after_run {s t : State} {es : List Event} (h : Inv s) (hx : acceptAll s es = some t) : Inv t := by
  induction es generalizing s with
  | nil => exact Option.some.inj hx ▸ h
  | cons e es ih =>
    obtain ⟨u, hu, rest⟩ := acceptAll_cons_eq_some.1 hx
    exact ih (h.after_event hu) rest

end Sys2Proof.Machine

/-! ## The obligations -/

open Sys2Proof Sys2Proof.Machine

/-- Settles O10: a step either leads to a good state or is refused. -/
theorem stepKeepsInvariant : Obligations.StepKeepsInvariant := by
  unfold Obligations.StepKeepsInvariant
  intro s t h hs
  obtain ⟨u, e, good⟩ | ⟨e, -⟩ | ⟨e, -⟩ | ⟨w, -, e, -⟩ := inv_step_cases h <;> rw [hs] at e
  · exact Host.Outcome.next.inj e ▸ good
  all_goals nomatch e

/-- Settles O11: no case of a step is a fault. -/
theorem noFaultFromAGoodState : Obligations.NoFaultFromAGoodState := by
  unfold Obligations.NoFaultFromAGoodState
  intro s f h hs
  obtain ⟨u, e, -⟩ | ⟨e, -⟩ | ⟨e, -⟩ | ⟨w, -, e, -⟩ := inv_step_cases h <;> rw [hs] at e <;> nomatch e

/-- Settles O12: the three refusals are the last three cases of a step. -/
theorem onlyTheseRefusals : Obligations.OnlyTheseRefusals := by
  unfold Obligations.OnlyTheseRefusals
  intro s r h hs
  obtain ⟨u, e, -⟩ | ⟨e, busy⟩ | ⟨e, idle⟩ | ⟨w, offered, e, reserved⟩ := inv_step_cases h <;> rw [hs] at e
  · nomatch e
  · exact .inl ⟨Host.Outcome.refused.inj e, busy⟩
  · exact .inr (.inl ⟨Host.Outcome.refused.inj e, idle⟩)
  · exact .inr (.inr ⟨w, offered, Host.Outcome.refused.inj e, reserved⟩)

/-- Settles O13: an admitted event is served. -/
theorem contractedEventsAreAccepted : Obligations.ContractedEventsAreAccepted := by
  unfold Obligations.ContractedEventsAreAccepted
  exact fun s e h ha => h.accepts ha

/-- Settles O9: the reset values are inside their ranges and both traces are empty. -/
theorem resetStateIsGood : Obligations.ResetStateIsGood := by
  unfold Obligations.ResetStateIsGood
  exact ⟨inv_resetOf (by decide), rfl, rfl, rfl, rfl, fun b => inv_resetOf⟩

end

section
/-! Runs seen from the loader (42_ingestion.md): between resets the buffer and the loader's registers are a function of
the received bytes alone. The copy and the whole frame, and their obligations. -/

namespace Sys2Proof.Machine

/-! ## The loader's part of a state -/

/-- The state with everything forgotten that the loader neither reads nor writes (10_state.md R43). -/
def State.loaderPart (s : State) : State :=
  { s with
    row := 0, level := 0, rowOffset := 0, tseq := .idle, ob0 := 0, ob1 := 0, strobe := false, ports := ⟨0, 0, 0⟩
    trace := s.trace.filter (· = .ind), enabled := true, input := [], draws := 0, scratch := Scratch.empty }

/-- The indicator is asserted as often in the loader's part. -/
theorem countInd_loaderPart (s : State) : countInd s.loaderPart.trace = countInd s.trace := by
  simp only [countInd, State.loaderPart, List.countP_filter]
  congr 1
  funext e
  cases e <;> rfl

/-- What the loader's part says of the state. -/
theorem fields_of_loaderPart_eq {t u : State} (h : t.loaderPart = u) :
    t.build = u.build ∧ t.fb = u.fb ∧ t.phase = u.phase ∧ t.step = u.step ∧ t.writeOffset = u.writeOffset ∧
      countInd t.trace = countInd u.trace := by
  subst h
  exact ⟨rfl, rfl, rfl, rfl, rfl, (countInd_loaderPart t).symm⟩

theorem loaderPart_enterCopying (s : State) : s.enterCopying.loaderPart = s.loaderPart.enterCopying := by
  simp [State.loaderPart, State.enterCopying, State.emit]

/-- A received byte acts on the loader's part alone. -/
theorem loaderPart_received (s : State) (d : Byte) : (s.received d).loaderPart = s.loaderPart.received d := by
  cases hp : s.phase with
  | seeking =>
    rw [received_seeking hp, received_seeking (s := s.loaderPart) hp]
    rw [apply_ite State.loaderPart, apply_ite State.loaderPart, apply_ite State.loaderPart, loaderPart_enterCopying]
    rfl
  | copying =>
    rw [received_copying hp, received_copying (s := s.loaderPart) hp]
    exact apply_ite State.loaderPart _ _ _

/-- A tick leaves the loader's part. -/
theorem loaderPart_tickResult (s : State) : s.tickResult.loaderPart = s.loaderPart := by
  rw [tickResult_frame, tickResult_trace]
  simp [State.loaderPart]

/-- The second byte's transmission leaves the loader's part. -/
theorem loaderPart_transmit (s : State) (b : Byte) (w : TSeq) : (s.transmit b w).loaderPart = s.loaderPart := by
  simp [State.loaderPart, State.transmit, State.emit]

/-- The latch of a row leaves the loader's part. -/
theorem loaderPart_latchResult (s : State) : s.latchResult.loaderPart = s.loaderPart := by
  simp [State.loaderPart, State.latchResult]

/-! ## Runs without RESET -/

/-- An accepted event acts on the loader's part as the bytes it delivers. -/
theorem acceptEvent_loaderPart {s t : State} {e : Event} (h : acceptEvent s e = some t) (he : e ≠ .reset) :
    t.loaderPart = (receivedBytes [e]).foldl State.received s.loaderPart := by
  cases e with
  | reset => exact absurd rfl he
  | tick =>
    obtain ⟨-, -, -, rfl⟩ := acceptEvent_tick h
    exact loaderPart_tickResult s
  | txdone =>
    obtain ⟨-, ⟨-, rfl⟩ | ⟨-, -, rfl⟩⟩ := acceptEvent_txdone h
    · exact loaderPart_transmit s _ _
    · exact loaderPart_latchResult s
  | rx d =>
    obtain ⟨-, -, -, rfl⟩ := acceptEvent_rx_iff.1 h
    exact loaderPart_received s d

/-- The sequencer's events leave the loader's part. -/
theorem loaderPart_of_sequencer {s t : State} {e : Event} (he : e = .tick ∨ e = .txdone)
    (h : acceptEvent s e = some t) : t.loaderPart = s.loaderPart := by
  obtain rfl | rfl := he
  · exact acceptEvent_loaderPart h nofun
  · exact acceptEvent_loaderPart h nofun

theorem receivedBytes_cons (e : Event) (es : List Event) :
    receivedBytes (e :: es) = receivedBytes [e] ++ receivedBytes es := by
  cases e <;> rfl

/-- The loader's part after a run without RESET is that of the received bytes, whatever falls between them. -/
theorem acceptAll_loaderPart {s t : State} {es : List Event} (h : acceptAll s es = some t) (hr : Event.reset ∉ es) :
    t.loaderPart = (receivedBytes es).foldl State.received s.loaderPart := by
  induction es generalizing s with
  | nil => exact Option.some.inj h ▸ rfl
  | cons e es ih =>
    obtain ⟨u, first, rest⟩ := acceptAll_cons_eq_some.1 h
    obtain ⟨he, hes⟩ := not_or.1 (mt List.mem_cons.2 hr)
    rw [receivedBytes_cons, List.foldl_append, ← acceptEvent_loaderPart first (Ne.symm he), ih rest hes]

/-! ## Storing a payload -/

/-- Bytes stored at consecutive offsets. -/
def Memory.setBytes (m : Memory) (o : Nat) : List Byte → Memory
  | [] => m
  | d :: ds => (m.setByte o d).setBytes (o + 1) ds

theorem Memory.setBytes_append (m : Memory) (o : Nat) (as bs : List Byte) :
    m.setBytes o (as ++ bs) = (m.setBytes o as).setBytes (o + as.length) bs := by
  induction as generalizing m o with
  | nil => rfl
  | cons a as ih =>
    have next : o + (a :: as).length = o + 1 + as.length := by rw [List.length_cons]; omega
    rw [List.cons_append, Memory.setBytes, ih, next]
    rfl

theorem Memory.setBytes_wf {cap : Nat} {m : Memory} (hm : Memory.wf cap m) {o : Nat} {ds : List Byte}
    (inside : o + ds.length ≤ cap) : Memory.wf cap (m.setBytes o ds) := by
  induction ds generalizing m o with
  | nil => exact hm
  | cons d ds ih =>
    rw [List.length_cons] at inside
    exact ih (Memory.setByte_wf hm (by omega) d) (by omega)

/-- Outside the stored range the old bytes stay. -/
theorem Memory.byteAt_setBytes_outside {m : Memory} (hm : m.Pairwise fun c d => c.1 < d.1) {o a : Nat} {ds : List Byte}
    (h : a < o ∨ o + ds.length ≤ a) : (m.setBytes o ds).byteAt a = m.byteAt a := by
  induction ds generalizing m o with
  | nil => rfl
  | cons d ds ih =>
    rw [List.length_cons] at h
    rw [Memory.setBytes, ih (Memory.setByte_rising hm o d) (by omega), Memory.byteAt_setByte hm, if_neg (by omega)]

/-- Inside the stored range the bytes stand in their order. -/
theorem Memory.byteAt_setBytes_inside {m : Memory} (hm : m.Pairwise fun c d => c.1 < d.1) (o : Nat) {ds : List Byte}
    {i : Nat} (h : i < ds.length) : (m.setBytes o ds).byteAt (o + i) = ds[i] := by
  induction ds generalizing m o i with
  | nil => cases h
  | cons d ds ih =>
    have hm' := Memory.setByte_rising hm o d
    cases i with
    | zero =>
      rw [Memory.setBytes, Memory.byteAt_setBytes_outside hm' (by omega), Memory.byteAt_setByte hm]
      exact if_pos rfl
    | succ i =>
      have shift : o + (i + 1) = o + 1 + i := by omega
      rw [Memory.setBytes, shift, ih hm' (o + 1) (Nat.lt_of_succ_lt_succ h)]
      rfl

/-- While the frame is not full the bytes are stored in order and nothing else changes (42_ingestion.md R139). -/
theorem foldl_received_copying {s : State} {ds : List Byte} (hp : s.phase = .copying)
    (more : s.writeOffset + ds.length < s.build.capacity) :
    ds.foldl State.received s
      = { s with fb := s.fb.setBytes s.writeOffset ds, writeOffset := s.writeOffset + ds.length } := by
  induction ds generalizing s with
  | nil => rfl
  | cons d ds ih =>
    have next : s.writeOffset + (d :: ds).length = s.writeOffset + 1 + ds.length := by rw [List.length_cons]; omega
    rw [next] at more ⊢
    rw [List.foldl_cons, received_payload hp (by omega), ih (s := s.copyResult d) hp more]
    rfl

/-! ## A whole frame -/

/-- Each marker byte makes a beginning of the marker one longer. -/
theorem marker_take_succ (k : Fin 6) :
    Config.marker.toList.take (k.val + 1) = Config.marker.toList.take k.val ++ [Config.markerByte k] := by
  revert k
  decide

/-- A beginning of the marker, received from the start of a search, is counted by `step` (42_ingestion.md R131). -/
theorem foldl_received_markerPrefix {s : State} (hp : s.phase = .seeking) (h0 : s.step = 0) (k : Fin 6) :
    (Config.marker.toList.take k.val).foldl State.received s = s.stepTo k := by
  induction k using Fin.induction with
  | zero => exact (stepTo_of_step_eq h0).symm
  | succ k ih =>
    have next : (s.stepTo k.castSucc).received (Config.markerByte k.castSucc) = s.stepTo (k.castSucc + 1) :=
      received_matched (s := s.stepTo k.castSucc) hp k.isLt
    rw [Fin.val_succ, ← Fin.val_castSucc, marker_take_succ, List.foldl_append, ih, List.foldl_cons, next,
      Fin.coeSucc_eq_succ]
    rfl

/-- The marker takes a search from its start into the copy (42_ingestion.md R132). -/
theorem foldl_received_marker {s : State} (hp : s.phase = .seeking) (h0 : s.step = 0) :
    Config.marker.toList.foldl State.received s = s.enterCopying := by
  have five : (Config.marker.toList.take 5).foldl State.received s = s.stepTo 5 := foldl_received_markerPrefix hp h0 5
  rw [show Config.marker.toList = Config.marker.toList.take 5 ++ [Config.markerByte 5] from marker_take_succ 5,
    List.foldl_append, five]
  exact received_lastMarker (s := s.stepTo 5) hp rfl

/-- A payload of CAPACITY bytes fills the buffer and ends the copy (42_ingestion.md R134, R135). -/
theorem foldl_received_payload {s : State} {p : List Byte} (hp : s.phase = .copying) (h0 : s.writeOffset = 0)
    (hl : p.length = s.build.capacity) (hne : p ≠ []) :
    p.foldl State.received s
      = { s with fb := s.fb.setBytes 0 p, writeOffset := s.build.capacity, phase := .seeking } := by
  obtain ⟨init, last, rfl⟩ := (List.eq_nil_or_concat p).resolve_left hne
  rw [List.length_concat] at hl
  have full : s.writeOffset + init.length + 1 = s.build.capacity := by omega
  rw [List.concat_eq_append, List.foldl_append, foldl_received_copying hp (by omega), List.foldl_cons, List.foldl_nil,
    received_lastPayload (by exact hp) (by exact full), Memory.setBytes_append]
  simp only [State.copyResult, Memory.setBytes, full]
  rw [h0]

/-- A frame, whatever falls between its bytes, replaces the whole buffer (42_ingestion.md R140). -/
theorem acceptAll_frame {s t : State} {es : List Event} {p : List Byte} (h : Inv s) (hp : s.phase = .seeking)
    (h0 : s.step = 0) (hr : Event.reset ∉ es) (hl : p.length = s.build.capacity)
    (hb : receivedBytes es = Config.marker.toList ++ p) (ht : acceptAll s es = some t) :
    t.build = s.build ∧ t.fb = s.fb.setBytes 0 p ∧ t.phase = .seeking ∧ t.step = 0 ∧ t.writeOffset = s.build.capacity ∧
      countInd t.trace = countInd s.trace + 1 := by
  have hne : p ≠ [] := List.ne_nil_of_length_pos (hl ▸ h.capacity_pos)
  have run := acceptAll_loaderPart ht hr
  rw [hb, List.foldl_append, foldl_received_marker (s := s.loaderPart) hp h0,
    foldl_received_payload (s := s.loaderPart.enterCopying) rfl rfl hl hne] at run
  obtain ⟨build, buffer, phase, step, offset, trace⟩ := fields_of_loaderPart_eq run
  rw [State.enterCopying_trace, countInd_append, countInd_loaderPart] at trace
  exact ⟨build, buffer, phase, step, offset, trace⟩

/-- A whole payload leaves the same memory, whatever stood there before (42_ingestion.md R141). -/
theorem Memory.setBytes_whole {cap : Nat} {m n : Memory} (hm : Memory.wf cap m) (hn : Memory.wf cap n) {p : List Byte}
    (hl : p.length = cap) : m.setBytes 0 p = n.setBytes 0 p := by
  have hm' := Memory.setBytes_wf hm (o := 0) (ds := p) (by omega)
  have hn' := Memory.setBytes_wf hn (o := 0) (ds := p) (by omega)
  refine Memory.ext_of_byteAt hm' hn' fun a => ?_
  by_cases inside : a < p.length
  · rw [← Nat.zero_add a, Memory.byteAt_setBytes_inside hm.1 0 inside, Memory.byteAt_setBytes_inside hn.1 0 inside]
  · rw [Memory.byteAt_outside hm' (by omega), Memory.byteAt_outside hn' (by omega)]

end Sys2Proof.Machine

/-! ## The obligations -/

open Sys2Proof Sys2Proof.Machine

/-- Settles O38: the loader's part after the run is that of the bytes, and they are stored one after the other. -/
theorem copyIsNotInterrupted : Obligations.CopyIsNotInterrupted := by
  unfold Obligations.CopyIsNotInterrupted
  intro s t es h hp hr more ht
  have run := acceptAll_loaderPart ht hr
  rw [foldl_received_copying (s := s.loaderPart) hp more] at run
  obtain ⟨-, buffer, phase, -, offset, trace⟩ := fields_of_loaderPart_eq run
  rw [buffer]
  exact ⟨phase.trans hp, offset, fun i hi => Memory.byteAt_setBytes_inside h.memory.1 _ hi,
    fun a outside => Memory.byteAt_setBytes_outside h.memory.1 outside, trace.trans (countInd_loaderPart s)⟩

/-- Settles O39: the marker starts a copy at offset 0, and the payload fills the buffer. -/
theorem wholeFrameReplacesTheBuffer : Obligations.WholeFrameReplacesTheBuffer := by
  unfold Obligations.WholeFrameReplacesTheBuffer
  intro s t es p h hp h0 hr hl hb ht
  obtain ⟨-, buffer, phase, step, offset, trace⟩ := acceptAll_frame h hp h0 hr hl hb ht
  refine ⟨phase, step, offset, fun i hi => ?_, trace⟩
  have stored := Memory.byteAt_setBytes_inside h.memory.1 0 hi
  rwa [Nat.zero_add, ← buffer] at stored

/-- Settles O40: each frame leaves the memory of its payload. -/
theorem sameFrameTwiceSameBuffer : Obligations.SameFrameTwiceSameBuffer := by
  unfold Obligations.SameFrameTwiceSameBuffer
  intro s t u es es' p h hp h0 hr hr' hl hb hb' ht hu
  obtain ⟨build, first, phase, step, -⟩ := acceptAll_frame h hp h0 hr hl hb ht
  have good := h.after_run ht
  obtain ⟨-, second, -⟩ := acceptAll_frame good phase step hr' (build ▸ hl) hb' hu
  calc u.fb = t.fb.setBytes 0 p := second
    _ = s.fb.setBytes 0 p := Memory.setBytes_whole (build ▸ good.memory) h.memory hl
    _ = t.fb := first.symm

end

section
/-! The marker recogniser and the loader's transitions (42_ingestion.md R131 to R133, R137, R143), and their
obligations. -/

namespace Sys2Proof.Machine

/-! ## The marker recogniser -/

/-- A list that ends in `x` ends another list exactly if that one ends in `x` too and the rest agrees. -/
theorem concat_suffix_concat_iff {α : Type} {as bs : List α} {x y : α} :
    as ++ [x] <:+ bs ++ [y] ↔ as <:+ bs ∧ x = y := by
  rw [List.suffix_concat_iff]
  constructor
  · rintro (none | ⟨t, e, suffix⟩)
    · simp at none
    · obtain ⟨rfl, last⟩ := List.append_inj' e rfl
      exact ⟨suffix, (List.cons.inj last).1⟩
  · rintro ⟨suffix, rfl⟩
    exact .inr ⟨as, rfl, suffix⟩

/-- A longer beginning of the marker ends the bytes exactly if a shorter one did and its next byte came. -/
theorem markerPrefix_suffix_concat_iff (k : Fin 6) (ds : List Byte) (d : Byte) :
    Config.marker.toList.take (k.val + 1) <:+ ds ++ [d] ↔
      Config.marker.toList.take k.val <:+ ds ∧ Config.markerByte k = d := by
  rw [marker_take_succ, concat_suffix_concat_iff]

theorem marker_suffix_concat_iff (ds : List Byte) (d : Byte) :
    Config.marker.toList <:+ ds ++ [d] ↔ Config.marker.toList.take 5 <:+ ds ∧ Config.markerByte 5 = d :=
  markerPrefix_suffix_concat_iff 5 ds d

/-- The bytes of the marker are distinct, so no shorter beginning of it but the empty one ends a longer one. -/
theorem markerByte_injective : ∀ j k : Fin 6, Config.markerByte j = Config.markerByte k → j = k := by decide

theorem markerPrefix_not_suffix : ∀ k : Fin 6, ∀ j < k.val, 0 < j →
    ¬ Config.marker.toList.take j <:+ Config.marker.toList.take k.val := by decide

/-- `k` is the length of the longest beginning of the marker, short of all of it, that ends the bytes. -/
structure LongestPrefix (k : Fin 6) (ds : List Byte) : Prop where
  ends    : Config.marker.toList.take k.val <:+ ds
  longest : ∀ n ≤ 5, Config.marker.toList.take n <:+ ds → n ≤ k.val

theorem longestPrefix_nil : LongestPrefix 0 [] where
  ends := List.suffix_rfl
  longest := by decide

/-- What beginnings of the marker can end one byte more. -/
theorem LongestPrefix.concat_longest {k : Fin 6} {ds : List Byte} {d : Byte} (h : LongestPrefix k ds) {n : Nat}
    (hn : n ≤ 5) (ends : Config.marker.toList.take n <:+ ds ++ [d]) :
    n = 0 ∨ ∃ j : Fin 6, n = j.val + 1 ∧ j ≤ k ∧ Config.markerByte j = d ∧ Config.marker.toList.take j.val <:+ ds := by
  cases n with
  | zero => exact .inl rfl
  | succ j =>
    obtain ⟨shorter, last⟩ := (markerPrefix_suffix_concat_iff ⟨j, by omega⟩ ds d).1 ends
    exact .inr ⟨⟨j, by omega⟩, rfl, h.longest j (by omega) shorter, last, shorter⟩

theorem LongestPrefix.matched {k : Fin 6} {ds : List Byte} (h : LongestPrefix k ds) (h5 : k.val < 5) :
    LongestPrefix (k + 1) (ds ++ [Config.markerByte k]) := by
  have next : (k + 1).val = k.val + 1 := Fin.val_add_one_of_lt (Fin.lt_def.2 h5)
  constructor
  · rw [next]
    exact (markerPrefix_suffix_concat_iff k ds _).2 ⟨h.ends, rfl⟩
  · intro n hn ends
    obtain rfl | ⟨j, rfl, le, -, -⟩ := h.concat_longest hn ends
    · exact Nat.zero_le _
    · rw [next]
      exact Nat.succ_le_succ le

theorem LongestPrefix.restarted {k : Fin 6} {ds : List Byte} (h : LongestPrefix k ds) :
    LongestPrefix 1 (ds ++ [Config.markerByte 0]) := by
  constructor
  · exact (markerPrefix_suffix_concat_iff 0 ds _).2 ⟨List.nil_suffix, rfl⟩
  · intro n hn ends
    obtain rfl | ⟨j, rfl, -, last, -⟩ := h.concat_longest hn ends
    · exact Nat.zero_le _
    · rw [markerByte_injective j 0 last]
      rfl

theorem LongestPrefix.missed {k : Fin 6} {ds : List Byte} {d : Byte} (h : LongestPrefix k ds)
    (mismatch : d ≠ Config.markerByte k) (noStart : d ≠ Config.markerByte 0) : LongestPrefix 0 (ds ++ [d]) := by
  constructor
  · exact List.nil_suffix
  · intro n hn ends
    obtain rfl | ⟨j, rfl, le, rfl, shorter⟩ := h.concat_longest hn ends
    · exact Nat.le_refl _
    · have lt : j.val < k.val := Nat.lt_of_le_of_ne le fun e => mismatch (congrArg Config.markerByte (Fin.ext e))
      have pos : 0 < j.val := Nat.pos_of_ne_zero fun e => noStart (congrArg Config.markerByte (Fin.ext e))
      have nested := List.suffix_of_suffix_length_le shorter h.ends (by
        rw [List.length_take, List.length_take]
        exact min_le_min_right _ le)
      exact absurd nested (markerPrefix_not_suffix k j.val lt pos)

/-- The marker is complete exactly with its last byte at step 5. -/
theorem LongestPrefix.marker_iff {k : Fin 6} {ds : List Byte} {d : Byte} (h : LongestPrefix k ds) :
    Config.marker.toList <:+ ds ++ [d] ↔ k = 5 ∧ d = Config.markerByte 5 := by
  rw [marker_suffix_concat_iff]
  constructor
  · rintro ⟨ends, rfl⟩
    have full : 5 ≤ k.val := h.longest 5 (Nat.le_refl _) ends
    exact ⟨step_eq_five full.not_gt, rfl⟩
  · rintro ⟨rfl, rfl⟩
    exact ⟨h.ends, rfl⟩

theorem acceptAll_concat (s : State) (es : List Event) (e : Event) :
    acceptAll s (es ++ [e]) = (acceptAll s es).bind fun t => acceptEvent t e := by
  rw [acceptAll_append]
  congr 1
  funext t
  exact Option.bind_fun_some _

/-- What the recogniser has reached with the bytes of a search that hold no marker before their end: where the search
goes on, the longest beginning of the marker; where the marker is complete, the start of a copy. -/
structure Recognised (s : State) (ds : List Byte) (t : State) : Prop where
  run     : acceptAll s (ds.map .rx) = some t
  build   : t.build = s.build
  buffer  : t.fb = s.fb
  enabled : t.enabled = true
  idle    : t.tseq = .idle
  search  : ¬ Config.marker.toList <:+ ds → t.phase = .seeking ∧ LongestPrefix t.step ds
  copy    : Config.marker.toList <:+ ds → t.phase = .copying ∧ t.step = 0 ∧ t.writeOffset = 0

/-- One more byte, in a build with M0_RESTART (42_ingestion.md R131 to R133, R138). -/
theorem Recognised.concat {s t : State} {ds : List Byte} (h : Recognised s ds t) (hr : s.build.m0Restart = true)
    (noMarker : ¬ Config.marker.toList <:+ ds) (d : Byte) : Recognised s (ds ++ [d]) (t.received d) := by
  obtain ⟨seeking, tracked⟩ := h.search noMarker
  have run : acceptAll s ((ds ++ [d]).map .rx) = some (t.received d) := by
    rw [List.map_append, List.map_singleton, acceptAll_concat, h.run, Option.bind_some,
      acceptEvent_rx_seeking h.enabled h.idle seeking]
  have goesOn {k : Fin 6} (e : t.received d = t.stepTo k) (incomplete : ¬ Config.marker.toList <:+ ds ++ [d])
      (longest : LongestPrefix k (ds ++ [d])) : Recognised s (ds ++ [d]) (t.received d) := by
    rw [e] at run ⊢
    exact { h with run := run, search := fun _ => ⟨seeking, longest⟩, copy := fun full => absurd full incomplete }
  by_cases matched : d = Config.markerByte t.step
  · subst matched
    by_cases h5 : t.step.val < 5
    · refine goesOn (received_matched seeking h5) (fun full => ?_) (tracked.matched h5)
      have := (tracked.marker_iff.1 full).1
      rw [this] at h5
      exact absurd h5 (by decide)
    · have last := step_eq_five h5
      have full : Config.marker.toList <:+ ds ++ [Config.markerByte t.step] :=
        tracked.marker_iff.2 ⟨last, congrArg _ last⟩
      have e : t.received (Config.markerByte t.step) = t.enterCopying := by
        rw [congrArg Config.markerByte last]
        exact received_lastMarker seeking last
      rw [e] at run ⊢
      exact { h with run := run, search := fun incomplete => absurd full incomplete, copy := fun _ => ⟨rfl, rfl, rfl⟩ }
  · have incomplete : ¬ Config.marker.toList <:+ ds ++ [d] := fun full => by
      obtain ⟨last, rfl⟩ := tracked.marker_iff.1 full
      exact matched (congrArg _ last.symm)
    by_cases start : d = Config.markerByte 0
    · refine goesOn (received_restart seeking matched ⟨start, h.build ▸ hr⟩) incomplete ?_
      rw [start]
      exact tracked.restarted
    · have missed := received_missed seeking matched fun restart => start restart.1
      exact goesOn missed incomplete (tracked.missed matched start)

/-- The recogniser over a whole search, by induction on the bytes (42_ingestion.md R137). -/
theorem recognised {s : State} {ds : List Byte} (hr : s.build.m0Restart = true) (he : s.enabled = true)
    (hi : s.tseq = .idle) (hp : s.phase = .seeking) (h0 : s.step = 0)
    (noMarker : ∀ n < ds.length, ¬ Config.marker.toList <:+ ds.take n) : ∃ t, Recognised s ds t := by
  induction ds using List.reverseRecOn with
  | nil =>
    exact ⟨s, { run := rfl, build := rfl, buffer := rfl, enabled := he, idle := hi,
                search := fun _ => ⟨hp, h0 ▸ longestPrefix_nil⟩, copy := fun full => absurd full (by decide) }⟩
  | append_singleton ds d ih =>
    have before (n : Nat) (hn : n ≤ ds.length) : ¬ Config.marker.toList <:+ ds.take n := by
      have := noMarker n (by rw [List.length_append, List.length_singleton]; omega)
      rwa [List.take_append_of_le_length hn] at this
    obtain ⟨t, ht⟩ := ih fun n hn => before n (Nat.le_of_lt hn)
    exact ⟨_, ht.concat hr (by simpa using before ds.length (Nat.le_refl _)) d⟩

/-- In a build of either M0_RESTART a byte of a search keeps `step` sound: `step` marker bytes end the bytes received,
and the byte that starts the copy completes the marker (42_ingestion.md R137). -/
theorem received_sound {u : State} {ds : List Byte} (hp : u.phase = .seeking)
    (ends : Config.marker.toList.take u.step.val <:+ ds) (d : Byte) :
    ((u.received d).phase = .seeking → Config.marker.toList.take (u.received d).step.val <:+ ds ++ [d]) ∧
      ((u.received d).phase = .copying → Config.marker.toList <:+ ds ++ [d]) := by
  by_cases matched : d = Config.markerByte u.step
  · subst matched
    by_cases h5 : u.step.val < 5
    · have next : (u.step + 1).val = u.step.val + 1 := Fin.val_add_one_of_lt (Fin.lt_def.2 h5)
      rw [received_matched hp h5]
      refine ⟨fun _ => ?_, fun copying => nomatch hp.symm.trans copying⟩
      rw [State.stepTo_step, next]
      exact (markerPrefix_suffix_concat_iff u.step ds _).2 ⟨ends, rfl⟩
    · have last := step_eq_five h5
      rw [last] at ends ⊢
      rw [received_lastMarker hp last]
      exact ⟨nofun, fun _ => (marker_suffix_concat_iff ds _).2 ⟨ends, rfl⟩⟩
  · by_cases restart : d = Config.markerByte 0 ∧ u.build.m0Restart = true
    · rw [received_restart hp matched restart]
      exact ⟨fun _ => (markerPrefix_suffix_concat_iff 0 ds d).2 ⟨List.nil_suffix, restart.1.symm⟩,
        fun copying => nomatch hp.symm.trans copying⟩
    · rw [received_missed hp matched restart]
      exact ⟨fun _ => List.nil_suffix, fun copying => nomatch hp.symm.trans copying⟩

/-- A search that has not entered the copy before its last byte is sound, by induction on the bytes. -/
theorem search_sound {s t : State} {ds : List Byte} (hp : s.phase = .seeking) (h0 : s.step = 0)
    (ht : acceptAll s (ds.map .rx) = some t)
    (search : ∀ n < ds.length, ∀ u, acceptAll s ((ds.take n).map .rx) = some u → u.phase = .seeking) :
    (t.phase = .seeking → Config.marker.toList.take t.step.val <:+ ds) ∧
      (t.phase = .copying → Config.marker.toList <:+ ds) := by
  induction ds using List.reverseRecOn generalizing t with
  | nil =>
    obtain rfl := Option.some.inj ht
    rw [h0]
    exact ⟨fun _ => List.suffix_rfl, fun copying => nomatch hp.symm.trans copying⟩
  | append_singleton ds d ih =>
    rw [List.map_append, List.map_singleton, acceptAll_concat, Option.bind_eq_some_iff] at ht
    obtain ⟨u, hu, last⟩ := ht
    have before (n : Nat) (hn : n ≤ ds.length) (v : State) (hv : acceptAll s ((ds.take n).map .rx) = some v) :
        v.phase = .seeking :=
      search n (by rw [List.length_append, List.length_singleton]; omega) v
        (by rwa [List.take_append_of_le_length hn])
    have seeking : u.phase = .seeking := before ds.length (Nat.le_refl _) u (by rwa [List.take_length])
    have ends := (ih hu fun n hn => before n (Nat.le_of_lt hn)).1 seeking
    obtain ⟨-, -, -, rfl⟩ := acceptEvent_rx_iff.1 last
    exact received_sound seeking ends d

/-- The bytes of R137, one by one: with M0_RESTART the second 0xDE starts the marker, without it the
marker is missed. -/
theorem doubledM0_run {s : State} (he : s.enabled = true) (hi : s.tseq = .idle) (hp : s.phase = .seeking)
    (h0 : s.step = 0) :
    ∃ t, acceptAll s ([0xDE, 0xDE, 0xAD, 0xBE, 0xEF, 0x01, 0x02].map .rx) = some t ∧
      (s.build.m0Restart = false → t.phase = .seeking ∧ t.step = 0) ∧
      (s.build.m0Restart = true → t.phase = .copying) := by
  obtain ⟨⟨rows, restart⟩, fb, row, level, rowOffset, phase, step, writeOffset, tseq, ob0, ob1, strobe, ports, trace,
    enabled, input, draws, scratch⟩ := s
  obtain rfl : enabled = true := he
  obtain rfl : tseq = .idle := hi
  obtain rfl : phase = .seeking := hp
  obtain rfl : step = 0 := h0
  cases restart with
  | false => exact ⟨_, rfl, fun _ => ⟨rfl, rfl⟩, nofun⟩
  | true => exact ⟨_, rfl, nofun, fun _ => rfl⟩

/-! ## Single bytes -/

theorem exec_rx_received_seeking {s : State} (he : s.enabled = true) (hi : s.tseq = .idle) (hp : s.phase = .seeking)
    (d : Byte) : exec (operationOf s.mode (.rx d)) s = .next (s.received d) :=
  exec_rx_received he hi (fun copying => nomatch hp.symm.trans copying) d

/-- The last marker byte (42_ingestion.md R132). -/
theorem receive_lastMarker {s : State} (he : s.enabled = true) (hi : s.tseq = .idle) (hp : s.phase = .seeking)
    (h5 : s.step = 5) :
    operationOf s.mode (.rx (Config.markerByte 5)) = .rxM5 ∧ exec .rxM5 s = .next s.enterCopying := by
  have operation : operationOf s.mode (.rx (Config.markerByte 5)) = .rxM5 := operationOf_rx_marker (m := s.mode) hp h5
  have effect := exec_rx_received_seeking he hi hp (Config.markerByte 5)
  rw [received_lastMarker hp h5, operation] at effect
  exact ⟨operation, effect⟩

/-- A mismatching M0 in a build with M0_RESTART (42_ingestion.md R133). -/
theorem receive_restart {s : State} (he : s.enabled = true) (hi : s.tseq = .idle) (hp : s.phase = .seeking)
    (mismatch : Config.markerByte 0 ≠ Config.markerByte s.step) (hr : s.build.m0Restart = true) :
    operationOf s.mode (.rx (Config.markerByte 0)) = .rxRestart ∧ exec .rxRestart s = .next (s.stepTo 1) := by
  have operation := operationOf_rx_restart (m := s.mode) hp mismatch hr
  have effect := exec_rx_received_seeking he hi hp (Config.markerByte 0)
  rw [received_restart hp mismatch ⟨rfl, hr⟩, operation] at effect
  exact ⟨operation, effect⟩

end Sys2Proof.Machine

/-! ## The obligations -/

open Sys2Proof Sys2Proof.Machine

/-- Settles O36, by the recogniser's state after every search, an induction on the bytes. -/
theorem recogniserTracksTheLongestPrefix : Obligations.RecogniserTracksTheLongestPrefix := by
  unfold Obligations.RecogniserTracksTheLongestPrefix
  intro s ds hr he hi hp h0 noMarker
  obtain ⟨t, ht⟩ := recognised hr he hi hp h0 noMarker
  refine ⟨t, ht.run, ht.buffer, fun incomplete => ?_, ht.copy⟩
  obtain ⟨seeking, tracked⟩ := ht.search incomplete
  exact ⟨seeking, tracked.ends, tracked.longest⟩

/-- Settles O35: the six cases of an accepted byte, and that the sequencer's events leave the loader's part. -/
theorem loaderControlFlow : Obligations.LoaderControlFlow := by
  unfold Obligations.LoaderControlFlow
  refine ⟨fun s t d h ht => ?_, fun s t e he ht => ?_, fun s t ht => ?_⟩
  · obtain ⟨-, -, ⟨seeking, matched, h5, rfl⟩ | ⟨seeking, matched, last, rfl⟩ | ⟨seeking, mismatch, restart, rfl⟩ |
      ⟨seeking, mismatch, miss, rfl⟩ | ⟨copying, more, rfl⟩ | ⟨copying, last, rfl⟩⟩ := acceptEvent_rx ht
    · exact .inl ⟨seeking, matched, h5, seeking, Fin.val_add_one_of_lt (Fin.lt_def.2 h5), rfl⟩
    · exact .inr (.inl ⟨seeking, matched, Fin.ext last, rfl, rfl, rfl⟩)
    · exact .inr (.inr (.inl ⟨seeking, mismatch, restart.1, restart.2, seeking, rfl, rfl⟩))
    · have noRestart (start : d = Config.markerByte 0) : s.build.m0Restart = false :=
        Bool.eq_false_iff.2 fun on => miss ⟨start, on⟩
      exact .inr (.inr (.inr (.inl ⟨seeking, mismatch, noRestart, seeking, rfl, rfl⟩)))
    · exact .inr (.inr (.inr (.inr (.inl ⟨copying, more, copying, h.step copying, rfl⟩))))
    · exact .inr (.inr (.inr (.inr (.inr ⟨copying, last, rfl, h.step copying, last⟩))))
  · obtain ⟨-, -, phase, step, offset, -⟩ := fields_of_loaderPart_eq (loaderPart_of_sequencer he ht)
    exact ⟨phase, step, offset⟩
  · obtain rfl := Option.some.inj ((acceptEvent_reset s).symm.trans ht)
    exact ⟨rfl, rfl⟩

/-- Settles O37: a search is sound under either M0_RESTART, and the seven bytes of R137 are run. -/
theorem recogniserAcceptsOnlyMarkers : Obligations.RecogniserAcceptsOnlyMarkers := by
  unfold Obligations.RecogniserAcceptsOnlyMarkers
  exact ⟨fun s t ds hp h0 ht search => search_sound hp h0 ht search, fun s he hi hp h0 => doubledM0_run he hi hp h0⟩

/-- Settles O30: the byte 0x02 is the last of the marker. -/
theorem lastMarkerByteStartsTheCopy : Obligations.LastMarkerByteStartsTheCopy := by
  unfold Obligations.LastMarkerByteStartsTheCopy
  exact fun s he hi hp h5 => receive_lastMarker he hi hp h5

/-- Settles O31: the byte 0xDE starts the marker and matches at no later step. -/
theorem mismatchingM0RestartsTheSearch : Obligations.MismatchingM0RestartsTheSearch := by
  unfold Obligations.MismatchingM0RestartsTheSearch
  intro s he hi hp later
  have mismatch : Config.markerByte 0 ≠ Config.markerByte s.step := fun e => by
    rw [← markerByte_injective 0 s.step e] at later
    exact absurd later (by decide)
  refine ⟨receive_restart he hi hp mismatch, fun off => receive_missed he hi hp mismatch fun restart => ?_⟩
  rw [off] at restart
  exact nomatch restart.2

end

section
/-! The refresh sequencer over whole ticks (43_refresh.md R151 to R166): the cursor as a number, a completed tick, the
15 passes of a row, and the obligations of that family. -/

namespace Sys2Proof.Machine

/-! ## The cursor as a number -/

theorem nextLevel_inner {l : Nat} (h : l < 14) : nextLevel l = l + 1 := if_pos (Nat.succ_lt_succ h)

theorem nextLevel_last : nextLevel 14 = 0 := rfl

theorem nextRow_inner {l : Nat} (h : l < 14) (rows r : Nat) : nextRow rows r l = r := if_pos (Nat.succ_lt_succ h)

theorem nextRow_last {rows r : Nat} (h : r < rows) : nextRow rows r 14 = (r + 1) % rows := by
  have wrap : nextRow rows r 14 = if r + 1 < rows then r + 1 else 0 := rfl
  rw [wrap]
  split
  · next inside => exact (Nat.mod_eq_of_lt inside).symm
  · next outside =>
    have full : r + 1 = rows := by omega
    rw [full, Nat.mod_self]

theorem advanceCursor_inner {s : State} (h : s.level < 14) : s.advanceCursor = { s with level := s.level + 1 } :=
  if_neg (Nat.not_le.2 (Nat.succ_lt_succ h))

theorem advanceCursor_nextRow {s : State} (h : s.level = 14) (more : s.row + 1 < s.build.rows) :
    s.advanceCursor = { s with level := 0, row := s.row + 1, rowOffset := s.rowOffset + Config.bytesPerRow } := by
  have last : Config.levels1 ≤ s.level + 1 := Nat.le_of_eq (congrArg (· + 1) h.symm)
  exact (if_pos last).trans (if_neg (Nat.not_le.2 more))

theorem advanceCursor_wraps {s : State} (h : s.level = 14) (full : s.row + 1 = s.build.rows) :
    s.advanceCursor = { s with level := 0, row := 0, rowOffset := 0 } := by
  have last : Config.levels1 ≤ s.level + 1 := Nat.le_of_eq (congrArg (· + 1) h.symm)
  exact (if_pos last).trans (if_pos (Nat.le_of_eq full.symm))

/-- A level is the last one or one before it. -/
theorem level_cases {l : Nat} (h : l < Config.levels1) : l < 14 ∨ l = 14 := Nat.lt_or_eq_of_le (Nat.le_of_lt_succ h)

/-- A tick moves the cursor one place along the cycle (43_refresh.md R152, R166). -/
theorem Inv.tickResult_cursorNumber {s : State} (h : Inv s) :
    s.tickResult.cursorNumber = (s.cursorNumber + 1) % s.build.cycleTicks := by
  have hr := h.row
  rw [State.cursorNumber, State.cursorNumber, tickResult_row, tickResult_level, levels1_eq, cycleTicks_eq]
  obtain inner | last := level_cases h.level
  · rw [nextRow_inner inner, nextLevel_inner inner, Nat.mod_eq_of_lt (by omega), Nat.add_assoc]
  · have whole : s.row * 15 + 14 + 1 = (s.row + 1) * 15 := by omega
    rw [last, nextRow_last hr, nextLevel_last, whole, Nat.mul_mod_mul_right, Nat.add_zero]

/-- The number gives the row and the level, and is a place of the cycle (43_refresh.md R166). -/
theorem Inv.cursor_of_number {s : State} (h : Inv s) :
    s.row = s.cursorNumber / 15 ∧ s.level = s.cursorNumber % 15 ∧ s.cursorNumber < s.build.cycleTicks := by
  have hr := h.row
  have hl := h.level
  rw [levels1_eq] at hl
  rw [State.cursorNumber, levels1_eq, cycleTicks_eq]
  omega

/-- Only a tick moves the cursor, and it moves it one place. -/
theorem Inv.acceptEvent_cursorNumber {s t : State} {e : Event} (h : Inv s) (ht : acceptEvent s e = some t)
    (he : e ≠ .reset) : t.cursorNumber = (s.cursorNumber + tickCount [e]) % s.build.cycleTicks ∧ t.build = s.build := by
  have still : s.cursorNumber = (s.cursorNumber + 0) % s.build.cycleTicks :=
    (Nat.mod_eq_of_lt h.cursor_of_number.2.2).symm
  cases e with
  | reset => exact absurd rfl he
  | tick =>
    obtain ⟨-, -, -, rfl⟩ := acceptEvent_tick ht
    exact ⟨h.tickResult_cursorNumber, tickResult_build s⟩
  | txdone =>
    obtain ⟨-, ⟨-, rfl⟩ | ⟨-, -, rfl⟩⟩ := acceptEvent_txdone ht
    · exact ⟨still, rfl⟩
    · exact ⟨still, rfl⟩
  | rx d =>
    obtain ⟨-, -, -, rfl⟩ := acceptEvent_rx_iff.1 ht
    rw [received_frame]
    exact ⟨still, rfl⟩

theorem tickCount_cons (e : Event) (es : List Event) : tickCount (e :: es) = tickCount [e] + tickCount es := by
  simp only [tickCount, List.countP_cons, List.countP_nil]
  omega

/-- The cursor over a run, by induction on the events (43_refresh.md R166). -/
theorem acceptAll_cursorNumber {s t : State} {es : List Event} (h : Inv s) (hr : Event.reset ∉ es)
    (ht : acceptAll s es = some t) : t.cursorNumber = (s.cursorNumber + tickCount es) % s.build.cycleTicks := by
  induction es generalizing s with
  | nil =>
    obtain rfl := Option.some.inj ht
    exact (Nat.mod_eq_of_lt h.cursor_of_number.2.2).symm
  | cons e es ih =>
    obtain ⟨u, first, rest⟩ := acceptAll_cons_eq_some.1 ht
    obtain ⟨he, hes⟩ := not_or.1 (mt List.mem_cons.2 hr)
    obtain ⟨number, build⟩ := h.acceptEvent_cursorNumber first (Ne.symm he)
    rw [ih (h.after_event first) hes rest, build, number, tickCount_cons e es, Nat.mod_add_mod, Nat.add_assoc]

/-! ## A completed tick -/

/-- The state after a tick and its two completions (43_refresh.md R163). -/
def State.afterTick (s : State) : State := (s.tickResult.transmit s.tickResult.ob1 .wait1).latchResult

theorem Inv.afterTick {s : State} (h : Inv s) (hi : s.tseq = .idle) : Inv s.afterTick := by
  have waiting : s.tickResult.tseq = .wait0 := by rw [tickResult_frame]
  exact ((h.tickResult hi).transmitSecond waiting).latchResult rfl

theorem acceptEvent_tick_of_inv {s : State} (h : Inv s) (hi : s.tseq = .idle) :
    acceptEvent s .tick = some s.tickResult :=
  acceptEvent_of_next (by simp [State.admits, h.enabled, hi]) (execTick_inside h.enabled hi h.advanceCursor_rowBlock)

theorem acceptEvent_txdone_wait0 {s : State} (he : s.enabled = true) (hw : s.tseq = .wait0) :
    acceptEvent s .txdone = some (s.transmit s.ob1 .wait1) :=
  acceptEvent_of_next (by simp [State.admits, he, hw]) (exec_txdone_wait0 he hw)

theorem acceptEvent_txdone_wait1 {s : State} (he : s.enabled = true) (hw : s.tseq = .wait1)
    (hr : s.row < s.build.rows) : acceptEvent s .txdone = some s.latchResult :=
  acceptEvent_of_next (by simp [State.admits, he, hw]) (exec_txdone_wait1 he hw hr)

theorem completedTick_eq {s : State} (h : Inv s) (hi : s.tseq = .idle) : completedTick s = some s.afterTick := by
  have waiting : s.tickResult.tseq = .wait0 := by rw [tickResult_frame]
  have ticked := h.tickResult hi
  have sent := ticked.transmitSecond waiting
  exact acceptAll_cons_eq_some.2 ⟨_, acceptEvent_tick_of_inv h hi, acceptAll_cons_eq_some.2
    ⟨_, acceptEvent_txdone_wait0 ticked.enabled waiting, acceptAll_cons_eq_some.2
      ⟨_, acceptEvent_txdone_wait1 sent.enabled rfl sent.row, rfl⟩⟩⟩

@[simp] theorem tickResult_fb (s : State) : s.tickResult.fb = s.fb := by rw [tickResult_frame]
@[simp] theorem tickResult_phase (s : State) : s.tickResult.phase = s.phase := by rw [tickResult_frame]
@[simp] theorem tickResult_step (s : State) : s.tickResult.step = s.step := by rw [tickResult_frame]
@[simp] theorem tickResult_writeOffset (s : State) : s.tickResult.writeOffset = s.writeOffset := by
  rw [tickResult_frame]

@[simp] theorem afterTick_build (s : State) : s.afterTick.build = s.build := tickResult_build s
@[simp] theorem afterTick_fb (s : State) : s.afterTick.fb = s.fb := tickResult_fb s
@[simp] theorem afterTick_phase (s : State) : s.afterTick.phase = s.phase := tickResult_phase s
@[simp] theorem afterTick_step (s : State) : s.afterTick.step = s.step := tickResult_step s
@[simp] theorem afterTick_writeOffset (s : State) : s.afterTick.writeOffset = s.writeOffset := tickResult_writeOffset s

theorem afterTick_ports (s : State) :
    s.afterTick.ports = portEncode s.afterTick.build (selectRow s.afterTick.build s.afterTick.row) := rfl

/-- The five output events of a completed tick (43_refresh.md R163). -/
theorem afterTick_trace (s : State) :
    s.afterTick.trace = s.trace ++ [.tx s.afterTick.ob0, .tx s.afterTick.ob1, .stb true, .sel s.afterTick.ports,
      .stb false] := by
  have trace : s.afterTick.trace = s.tickResult.trace ++ [.tx s.afterTick.ob1] ++
      [.stb true, .sel s.afterTick.ports, .stb false] := rfl
  rw [trace, tickResult_trace, List.append_assoc, List.append_assoc]
  rfl

/-! ## The 15 passes of a row -/

/-- Completed ticks of a good idle state all complete, one after the other. -/
theorem completedTicks_eq {s : State} (h : Inv s) (hi : s.tseq = .idle) (n : Nat) :
    completedTicks n s = some (State.afterTick^[n] s) := by
  induction n generalizing s with
  | zero => rfl
  | succ n ih =>
    rw [completedTicks, completedTick_eq h hi, Option.bind_some, ih (h.afterTick hi) rfl]
    rfl

/-- The state in pass `k` over the row `r` of the buffer `m`: what the passes of a row have in common. -/
structure InPass (b : Build) (m : Memory) (r k : Nat) (t : State) : Prop where
  good   : Inv t
  idle   : t.tseq = .idle
  build  : t.build = b
  buffer : t.fb = m
  row    : t.row = r
  level  : t.level = k
  lanes  : ∀ c < Config.columns, outputBit t.ob0 t.ob1 c = decide (k < (m.pixel r c).toNat)

/-- A completed tick outputs the row it has moved to. -/
theorem inPass_afterTick {s : State} (h : Inv s) (hi : s.tseq = .idle) :
    InPass s.build s.fb s.tickResult.row s.tickResult.level s.afterTick where
  good := h.afterTick hi
  idle := rfl
  build := afterTick_build s
  buffer := afterTick_fb s
  row := rfl
  level := rfl
  lanes _ hc := tickResult_outputBit s h.rowOffset hc

/-- From the end of a row, `k + 1` completed ticks are in pass `k` over the next one (43_refresh.md R165). -/
theorem inPass_iterate {s : State} (h : Inv s) (hi : s.tseq = .idle) (hl : s.level = 14) {k : Nat} (hk : k < 15) :
    InPass s.build s.fb ((s.row + 1) % s.build.rows) k (State.afterTick^[k + 1] s) := by
  induction k with
  | zero =>
    have pass := inPass_afterTick h hi
    rwa [tickResult_row, tickResult_level, hl, nextRow_last h.row, nextLevel_last] at pass
  | succ k ih =>
    have before := ih (by omega)
    have pass := inPass_afterTick before.good before.idle
    rw [tickResult_row, tickResult_level, before.level, nextRow_inner (by omega), nextLevel_inner (by omega),
      before.build, before.buffer, before.row] at pass
    rwa [Function.iterate_succ_apply']

/-- Of 15 levels, `v` lie below `v`. -/
theorem countP_levels_below : ∀ v : Pixel, (List.range 15).countP (fun k => decide (k < v.toNat)) = v.toNat := by decide

/-! ## The sub-steps and single events -/

theorem exec_tAdvance (s : State) : exec .tAdvance s = .next s.advanceCursor := rfl

theorem exec_tSel_inside {s : State} (h : s.row < s.build.rows) :
    exec .tSel s = .next (s.writePorts (portEncode s.build (selectRow s.build s.row))) := selectPorts_inside s h

theorem exec_laneGt_inside {l : BitVec 4} (h : l.toNat < Config.levels1) (v : BitVec 4) (s : State) :
    exec (.laneGt v l) s = .next (s.giveResult (.bit (laneGt v l.toNat))) := if_pos h

/-- Masked bytes compared as 8-bit numbers decide as the nibbles do (43_refresh.md R170). -/
theorem maskedBytes_toNat (b : Byte) :
    (b &&& 0x0F).toNat = (pixLo b).toNat ∧ (b &&& 0xF0).toNat = (pixHi b).toNat * 16 := by
  revert b
  decide

end Sys2Proof.Machine

/-! ## The obligations -/

open Sys2Proof Sys2Proof.Machine

/-- Settles O54: over a run each tick moves the number one place, and the number gives the pair. -/
theorem cursorRunsThroughTheCycle : Obligations.CursorRunsThroughTheCycle := by
  unfold Obligations.CursorRunsThroughTheCycle
  refine ⟨fun s t es h hr ht => ?_, rfl, rfl⟩
  obtain ⟨row, level, -⟩ := (h.after_run ht).cursor_of_number
  exact ⟨acceptAll_cursorNumber h hr ht, row, level⟩

/-- Settles O55: in pass `k` the bit says whether the value is above `k`, and as many of the 15 levels as the value
says lie below it. -/
theorem pixelIsLitForItsValue : Obligations.PixelIsLitForItsValue := by
  unfold Obligations.PixelIsLitForItsValue
  intro s c h hi hl hc
  have pass (k : Nat) (hk : k < 15) := inPass_iterate h hi hl hk
  refine ⟨fun k hk => ?_, ?_⟩
  · exact ⟨_, completedTicks_eq h hi (k + 1), (pass k hk).row, (pass k hk).level, (pass k hk).lanes c hc⟩
  · rw [← countP_levels_below]
    refine List.countP_congr fun k hk => ?_
    rw [completedTicks_eq h hi, Option.any_some, (pass k (List.mem_range.1 hk)).lanes c hc]

/-- Settles O50: the next state of a TICK, field by field. -/
theorem tickOutputsTheAdvancedRow : Obligations.TickOutputsTheAdvancedRow := by
  unfold Obligations.TickOutputsTheAdvancedRow
  intro s he hi hr hl ho
  have inside := advanceCursor_rowBlock_inside hr ho
  rw [advanceCursor_build] at inside
  refine ⟨s.tickResult, execTick_inside he hi inside, ?_, ?_, tickResult_rowOffset ho,
    fun c hc => tickResult_outputBit s ho hc, tickResult_trace s, tickResult_frame s⟩
  · rw [tickResult_level]
    obtain inner | last := level_cases hl
    · rw [nextLevel_inner inner, if_neg inner.ne]
    · rw [last, nextLevel_last, if_pos rfl]
  · rw [tickResult_row]
    obtain inner | last := level_cases hl
    · rw [nextRow_inner inner, if_neg inner.ne]
    · rw [last, nextRow_last hr, if_pos rfl]

/-- Settles O53: the state after the tick and its two completions, field by field. -/
theorem completedTickOutputs : Obligations.CompletedTickOutputs := by
  unfold Obligations.CompletedTickOutputs
  intro s h hi
  exact ⟨s.afterTick, completedTick_eq h hi, rfl, afterTick_trace s, afterTick_ports s, h.tickResult_cursorNumber,
    fun c hc => tickResult_outputBit s h.rowOffset hc, afterTick_fb s, afterTick_phase s, afterTick_step s,
    afterTick_writeOffset s⟩

/-- Settles O41, by the three cases of the advance. -/
theorem advanceMovesTheCursor : Obligations.AdvanceMovesTheCursor := by
  unfold Obligations.AdvanceMovesTheCursor
  intro s hr hl ho
  refine ⟨fun inner => ?_, fun last more => ?_, fun last full => ?_⟩ <;> rw [exec_tAdvance]
  · rw [advanceCursor_inner inner]
  · rw [advanceCursor_nextRow last more, ho, bytesPerRow_eq, Nat.succ_mul]
  · rw [advanceCursor_wraps last full]

/-- Settles O44: both output bytes are packed lane by lane. -/
theorem packPlacesEveryLane : Obligations.PackPlacesEveryLane := by
  unfold Obligations.PackPlacesEveryLane
  exact fun s => ⟨_, _, rfl, fun i hi => ⟨packLow_getLsbD _ i hi, packHigh_getLsbD _ i hi⟩⟩

/-- Settles O45: LANE_GT compares, and masking a byte scales its nibble. -/
theorem laneIsOnAboveTheLevel : Obligations.LaneIsOnAboveTheLevel := by
  unfold Obligations.LaneIsOnAboveTheLevel
  refine ⟨fun s v l hl => exec_laneGt_inside hl v s, fun b l _ => ?_⟩
  obtain ⟨low, high⟩ := maskedBytes_toNat b
  have scaled : (pixHi b).toNat * 16 > l * 16 ↔ (pixHi b).toNat > l := Nat.mul_lt_mul_right (by decide)
  rw [low, high, decide_eq_decide.2 scaled]
  exact ⟨rfl, rfl⟩

/-- Settles O46: each transmission is one event and one move of `tseq`. -/
theorem transmitHandsOverTheBytes : Obligations.TransmitHandsOverTheBytes := by
  unfold Obligations.TransmitHandsOverTheBytes
  exact fun s => ⟨rfl, rfl⟩

/-- Settles O48: a row inside the grid is selected. -/
theorem selectWritesThePorts : Obligations.SelectWritesThePorts := by
  unfold Obligations.SelectWritesThePorts
  exact fun s hr => exec_tSel_inside hr

/-- Settles O51: in WAIT0 the completion transmits the second byte. -/
theorem firstCompletionSendsTheSecondByte : Obligations.FirstCompletionSendsTheSecondByte := by
  unfold Obligations.FirstCompletionSendsTheSecondByte
  intro s he hw
  have sends : exec .txdoneW0 s = .next (s.transmit s.ob1 .wait1) := execTxdoneW0_waiting he hw
  exact ⟨operationOf_txdone_wait0 (m := s.mode) hw, sends, sends⟩

/-- Settles O52: in WAIT1 the completion raises the strobe, writes the ports and drops the strobe. -/
theorem secondCompletionLatchesTheRow : Obligations.SecondCompletionLatchesTheRow := by
  unfold Obligations.SecondCompletionLatchesTheRow
  intro s he hw hr
  have latches : exec .txdoneW1 s = .next s.latchResult := execTxdoneW1_waiting he hw hr
  refine ⟨operationOf_txdone_wait1 (m := s.mode) hw, latches, s.driveStrobe true, _, _, rfl, exec_tSel_inside hr, rfl,
    ?_⟩
  rw [latches]
  simp [State.latchResult, State.driveStrobe, State.writePorts, State.emit]

end

section
/-! Rules of the whole machine: what an event leaves unchanged, that sequencer and loader ignore each other, and when a
stored byte is seen (10_state.md R43, 20_memory.md R61, R66). The obligations of that family. -/

namespace Sys2Proof.Machine

/-! ## Traces -/

/-- A received byte asserts the indicator or appends nothing. -/
theorem received_trace (s : State) (d : Byte) :
    (s.received d).trace = s.trace ∨ (s.received d).trace = s.trace ++ [.ind] := by
  cases hp : s.phase with
  | seeking =>
    rw [received_seeking hp]
    split
    · split
      · exact .inl rfl
      · exact .inr rfl
    · split <;> exact .inl rfl
  | copying =>
    rw [received_copying hp]
    split <;> exact .inl rfl

/-- The strobe and the ports as an observer of the trace sees them: levels, values, and how often each was driven. -/
def SamePorts (s t : State) : Prop :=
  t.ports = s.ports ∧ t.strobe = s.strobe ∧ countSel t.trace = countSel s.trace ∧
    countStb true t.trace = countStb true s.trace ∧ countStb false t.trace = countStb false s.trace

/-- Output events that drive neither the strobe nor the ports. -/
theorem samePorts_of_append {s t : State} {es : List OutEvent} (hp : t.ports = s.ports) (hs : t.strobe = s.strobe)
    (ht : t.trace = s.trace ++ es) (quiet : countSel es = 0 ∧ countStb true es = 0 ∧ countStb false es = 0) :
    SamePorts s t := by
  obtain ⟨sel, high, low⟩ := quiet
  rw [SamePorts, ht, countSel_append, countStb_append, countStb_append, sel, high, low]
  exact ⟨hp, hs, rfl, rfl, rfl⟩

/-! ## The sequencer ignores the loader -/

/-- The same state with other registers of the loader. -/
def State.withLoader (s : State) (phase : Phase) (k : Fin 6) (w : Nat) : State :=
  { s with phase := phase, step := k, writeOffset := w }

section
variable (s : State) (phase : Phase) (k : Fin 6) (w : Nat)

theorem advanceCursor_withLoader : (s.withLoader phase k w).advanceCursor = s.advanceCursor.withLoader phase k w := by
  obtain ⟨inner, e⟩ | ⟨last, more, e⟩ | ⟨last, wraps, e⟩ := advanceCursor_cases s <;> rw [e]
  · exact if_neg (Nat.not_le.2 inner)
  · exact (if_pos last).trans (if_neg (Nat.not_le.2 more))
  · exact (if_pos last).trans (if_pos wraps)

theorem tickResult_withLoader : (s.withLoader phase k w).tickResult = s.tickResult.withLoader phase k w := by
  rw [State.tickResult, State.tickResult, advanceCursor_withLoader]
  rfl

/-- A tick does the same whatever the loader's registers hold. -/
theorem acceptEvent_tick_withLoader {s t : State} (h : acceptEvent s .tick = some t) :
    acceptEvent (s.withLoader phase k w) .tick = some (t.withLoader phase k w) := by
  obtain ⟨he, hi, inside, rfl⟩ := acceptEvent_tick h
  rw [← tickResult_withLoader]
  refine acceptEvent_of_next (acceptEvent_eq_some h).1 (execTick_inside he hi ?_)
  rw [advanceCursor_withLoader]
  exact inside

/-- A completion does the same whatever the loader's registers hold. -/
theorem acceptEvent_txdone_withLoader {s t : State} (h : acceptEvent s .txdone = some t) :
    acceptEvent (s.withLoader phase k w) .txdone = some (t.withLoader phase k w) := by
  obtain ⟨he, ⟨hw, rfl⟩ | ⟨hw, hr, rfl⟩⟩ := acceptEvent_txdone h
  · exact acceptEvent_txdone_wait0 he hw
  · exact acceptEvent_txdone_wait1 he hw hr

end

/-! ## The loader ignores the sequencer -/

/-- The same state with other registers and outputs of the sequencer, `tseq` apart. -/
def State.withSequencer (s : State) (row level rowOffset : Nat) (b0 b1 : Byte) (strobe : Bool) (ports : Config.Port3) :
    State :=
  { s with row := row, level := level, rowOffset := rowOffset, ob0 := b0, ob1 := b1, strobe := strobe, ports := ports }

section
variable (row level rowOffset : Nat) (b0 b1 : Byte) (strobe : Bool) (ports : Config.Port3)

theorem received_withSequencer (s : State) (d : Byte) :
    (s.withSequencer row level rowOffset b0 b1 strobe ports).received d
      = (s.received d).withSequencer row level rowOffset b0 b1 strobe ports := by
  have seeking_or_copying : (s.withSequencer row level rowOffset b0 b1 strobe ports).phase = s.phase := rfl
  cases hp : s.phase with
  | seeking =>
    rw [received_seeking (seeking_or_copying.trans hp), received_seeking hp,
      apply_ite (State.withSequencer · row level rowOffset b0 b1 strobe ports),
      apply_ite (State.withSequencer · row level rowOffset b0 b1 strobe ports),
      apply_ite (State.withSequencer · row level rowOffset b0 b1 strobe ports)]
    rfl
  | copying =>
    rw [received_copying (seeking_or_copying.trans hp), received_copying hp,
      apply_ite (State.withSequencer · row level rowOffset b0 b1 strobe ports)]
    rfl

/-- A byte does the same whatever the sequencer's registers and outputs hold. -/
theorem acceptEvent_rx_withSequencer {s t : State} {d : Byte} (h : acceptEvent s (.rx d) = some t) :
    acceptEvent (s.withSequencer row level rowOffset b0 b1 strobe ports) (.rx d)
      = some (t.withSequencer row level rowOffset b0 b1 strobe ports) := by
  obtain ⟨he, hi, hw, rfl⟩ := acceptEvent_rx_iff.1 h
  exact acceptEvent_rx_iff.2 ⟨he, hi, hw, (received_withSequencer row level rowOffset b0 b1 strobe ports s d).symm⟩

end

/-! ## What an event leaves of a stored byte -/

/-- A received byte stands at `writeOffset` if the loader is copying, and every other offset reads as before. -/
theorem received_byteAt {s : State} (hm : Memory.wf s.build.capacity s.fb) (d : Byte) :
    (s.phase = .copying → (s.received d).fb.byteAt s.writeOffset = d) ∧
      ∀ a, (s.phase = .copying → a ≠ s.writeOffset) → (s.received d).fb.byteAt a = s.fb.byteAt a := by
  cases hp : s.phase with
  | seeking =>
    have buffer : (s.received d).fb = s.fb := by
      rw [received_seeking hp]
      split
      · split <;> rfl
      · split <;> rfl
    rw [buffer]
    exact ⟨nofun, fun _ _ => rfl⟩
  | copying =>
    have buffer : (s.received d).fb = (s.copyResult d).fb := by
      rw [received_copying hp]
      split <;> rfl
    obtain ⟨stored, kept⟩ := copyResult_byteAt hm d
    rw [buffer]
    exact ⟨fun _ => stored, fun a ha => kept a (ha rfl)⟩

/-- A run stores where its first byte does, if it is a payload byte, and where the rest of the run does. -/
theorem mem_storedOffsets_cons {s t : State} {e : Event} {es : List Event} {o : Nat} (h : acceptEvent s e = some t) :
    o ∈ storedOffsets s (e :: es) ↔
      ((∃ d, e = .rx d) ∧ s.phase = .copying ∧ o = s.writeOffset) ∨ o ∈ storedOffsets t es := by
  simp only [storedOffsets, h, List.mem_append]
  cases e with
  | reset | tick | txdone => simp
  | rx d =>
    cases hp : s.phase with
    | seeking => simp
    | copying => simp

theorem storedOffsets_refused {s : State} {e : Event} (h : acceptEvent s e = none) (es : List Event) :
    storedOffsets s (e :: es) = [] := by
  unfold storedOffsets
  simp only [h]

/-- A tick or a completion leaves the buffer. -/
theorem acceptEvent_fb {s t : State} {e : Event} (h : acceptEvent s e = some t) (he : e = .tick ∨ e = .txdone) :
    t.fb = s.fb := by
  obtain ⟨-, buffer, -⟩ := fields_of_loaderPart_eq (loaderPart_of_sequencer he h)
  exact buffer

/-- A run that does not store to an offset leaves its byte, by induction on the events (20_memory.md R61). -/
theorem acceptAll_byteAt {s t : State} {es : List Event} {o : Nat} (h : Inv s) (hr : Event.reset ∉ es)
    (ht : acceptAll s es = some t) (ho : o ∉ storedOffsets s es) : t.fb.byteAt o = s.fb.byteAt o := by
  induction es generalizing s with
  | nil => exact Option.some.inj ht ▸ rfl
  | cons e es ih =>
    obtain ⟨u, first, rest⟩ := acceptAll_cons_eq_some.1 ht
    obtain ⟨he, hes⟩ := not_or.1 (mt List.mem_cons.2 hr)
    obtain ⟨here, later⟩ := not_or.1 (mt (mem_storedOffsets_cons first).2 ho)
    rw [ih (h.after_event first) hes rest later]
    cases e with
    | reset => exact absurd rfl he
    | tick => rw [acceptEvent_fb first (.inl rfl)]
    | txdone => rw [acceptEvent_fb first (.inr rfl)]
    | rx d =>
      obtain ⟨-, -, -, rfl⟩ := acceptEvent_rx_iff.1 first
      exact (received_byteAt h.memory d).2 o fun copying same => here ⟨⟨d, rfl⟩, copying, same⟩

/-! ## When an offset can be stored to again -/

/-- At least so many bytes come before one that is stored at the offset `o`: the rest of the copy, a marker, and the
payload up to `o` (42_ingestion.md R143). -/
def State.bytesUntil (s : State) (o : Nat) : Nat :=
  match s.phase with
  | .seeking => 6 - s.step.val + o
  | .copying => if s.writeOffset ≤ o then o - s.writeOffset else s.build.capacity - s.writeOffset + 6 + o

theorem bytesUntil_seeking {s : State} (h : s.phase = .seeking) (o : Nat) : s.bytesUntil o = 6 - s.step.val + o := by
  rw [State.bytesUntil, h]

theorem bytesUntil_copying {s : State} (h : s.phase = .copying) (o : Nat) :
    s.bytesUntil o = if s.writeOffset ≤ o then o - s.writeOffset else s.build.capacity - s.writeOffset + 6 + o := by
  rw [State.bytesUntil, h]

/-- Sequencer events do not bring a store nearer. -/
theorem bytesUntil_loaderPart (s : State) (o : Nat) : s.loaderPart.bytesUntil o = s.bytesUntil o := rfl

/-- A received byte brings a store nearer by one byte at most. -/
theorem Inv.bytesUntil_received {s : State} (h : Inv s) {o : Nat} (ho : o < s.build.capacity) (d : Byte) :
    s.bytesUntil o ≤ (s.received d).bytesUntil o + 1 := by
  cases hp : s.phase with
  | seeking =>
    have seeks (k : Fin 6) : (s.stepTo k).bytesUntil o = 6 - k.val + o := bytesUntil_seeking (s := s.stepTo k) hp o
    rw [bytesUntil_seeking hp]
    by_cases matched : d = Config.markerByte s.step
    · subst matched
      by_cases h5 : s.step.val < 5
      · rw [received_matched hp h5, seeks, Fin.val_add_one_of_lt (Fin.lt_def.2 h5)]
        omega
      · have last := step_eq_five h5
        rw [last, received_lastMarker hp last, bytesUntil_copying rfl, State.enterCopying_writeOffset,
          if_pos (Nat.zero_le _)]
        show 6 - 5 + o ≤ o - 0 + 1
        omega
    · by_cases restart : d = Config.markerByte 0 ∧ s.build.m0Restart = true
      · have later : s.step.val ≠ 0 := fun start =>
          matched (restart.1.trans (congrArg Config.markerByte (Fin.ext start).symm))
        rw [received_restart hp matched restart, seeks]
        show 6 - s.step.val + o ≤ 6 - 1 + o + 1
        omega
      · rw [received_missed hp matched restart, seeks]
        show 6 - s.step.val + o ≤ 6 - 0 + o + 1
        omega
  | copying =>
    have inside := h.copying hp
    rw [bytesUntil_copying hp]
    by_cases more : s.writeOffset + 1 < s.build.capacity
    · have next : (s.copyResult d).bytesUntil o = if s.writeOffset + 1 ≤ o then o - (s.writeOffset + 1)
          else s.build.capacity - (s.writeOffset + 1) + 6 + o := bytesUntil_copying (s := s.copyResult d) hp o
      rw [received_payload hp more, next]
      split_ifs <;> omega
    · have next : State.bytesUntil { s.copyResult d with phase := .seeking } o = 6 - s.step.val + o :=
        bytesUntil_seeking rfl o
      rw [received_lastPayload hp (by omega), next, h.step hp]
      show _ ≤ 6 - 0 + o + 1
      split_ifs <;> omega

/-- Just after a store at `writeOffset` the rest of the copy, a marker and the payload up to there lie ahead. -/
theorem Inv.bytesUntil_after_store {s : State} (h : Inv s) (hp : s.phase = .copying) (d : Byte) :
    s.build.capacity + 5 = (s.received d).bytesUntil s.writeOffset := by
  have inside := h.copying hp
  by_cases more : s.writeOffset + 1 < s.build.capacity
  · have next : (s.copyResult d).bytesUntil s.writeOffset
        = if s.writeOffset + 1 ≤ s.writeOffset then s.writeOffset - (s.writeOffset + 1)
          else s.build.capacity - (s.writeOffset + 1) + 6 + s.writeOffset :=
      bytesUntil_copying (s := s.copyResult d) hp s.writeOffset
    rw [received_payload hp more, next, if_neg (by omega)]
    omega
  · have next : State.bytesUntil { s.copyResult d with phase := .seeking } s.writeOffset
        = 6 - s.step.val + s.writeOffset := bytesUntil_seeking rfl _
    rw [received_lastPayload hp (by omega), next, h.step hp]
    show _ = 6 - 0 + s.writeOffset
    omega

/-- No more bytes than come before a store at `o` store nothing at `o`, by induction on the events. -/
theorem not_mem_storedOffsets {s : State} {es : List Event} {o : Nat} (h : Inv s) (ho : o < s.build.capacity)
    (hr : Event.reset ∉ es) (few : (receivedBytes es).length ≤ s.bytesUntil o) : o ∉ storedOffsets s es := by
  induction es generalizing s with
  | nil => exact List.not_mem_nil
  | cons e es ih =>
    cases first : acceptEvent s e with
    | none =>
      rw [storedOffsets_refused first]
      exact List.not_mem_nil
    | some t =>
      obtain ⟨he, hes⟩ := not_or.1 (mt List.mem_cons.2 hr)
      have run := acceptEvent_loaderPart first (Ne.symm he)
      have good := h.after_event first
      rw [mem_storedOffsets_cons first]
      rw [receivedBytes_cons, List.length_append] at few
      by_cases byte : ∃ d, e = .rx d
      · obtain ⟨d, rfl⟩ := byte
        obtain ⟨-, -, -, rfl⟩ := acceptEvent_rx_iff.1 first
        have one : (receivedBytes [.rx d]).length = 1 := rfl
        have nearer := h.bytesUntil_received ho d
        rintro (⟨-, copying, rfl⟩ | later)
        · rw [bytesUntil_copying copying, if_pos (Nat.le_refl _)] at few
          omega
        · exact ih good (received_build s d ▸ ho) hes (by omega) later
      · have none : receivedBytes [e] = [] := by
          cases e with
          | rx d => exact absurd ⟨d, rfl⟩ byte
          | reset | tick | txdone => rfl
        rw [none] at run few
        obtain ⟨build, -⟩ := fields_of_loaderPart_eq run
        have still : t.bytesUntil o = s.bytesUntil o := by
          rw [← bytesUntil_loaderPart t, run]
          rfl
        rintro (⟨here, -⟩ | later)
        · exact byte here
        · refine ih good (build ▸ ho) hes ?_ later
          rw [still]
          simpa using few

/-- A tick outputs the buffer as it stands (43_refresh.md R154). -/
theorem Inv.tick_outputBit {s t : State} (h : Inv s) (ht : acceptEvent s .tick = some t) {c : Nat}
    (hc : c < Config.columns) : outputBit t.ob0 t.ob1 c = decide ((s.fb.pixel t.row c).toNat > t.level) := by
  obtain ⟨-, -, -, rfl⟩ := acceptEvent_tick ht
  exact tickResult_outputBit s h.rowOffset hc

end Sys2Proof.Machine

/-! ## The obligations -/

open Sys2Proof Sys2Proof.Machine

/-- Settles O56: the stored byte stays until its offset is stored to again, which takes the rest of the copy, a marker
and the payload up to there; and a tick reads the buffer as it stands. -/
theorem writtenByteIsSeenByLaterTicks : Obligations.WrittenByteIsSeenByLaterTicks := by
  unfold Obligations.WrittenByteIsSeenByLaterTicks
  refine ⟨fun s u v t d es c h hp hu hr hv kept ht hc hrow => ?_, fun s u d es h hp hu hr few => ?_,
    fun s t c h ht hc => h.tick_outputBit ht hc⟩
  · have good := h.after_event hu
    obtain ⟨-, -, -, rfl⟩ := acceptEvent_rx_iff.1 hu
    have stored : v.fb.byteAt s.writeOffset = d :=
      (acceptAll_byteAt good hr hv kept).trans ((received_byteAt h.memory d).1 hp)
    have pixel : v.fb.pixel t.row c = pixelOf d c := by
      rw [← stored, ← hrow]
      rfl
    rw [(good.after_run hv).tick_outputBit ht hc, pixel]
    rfl
  · have good := h.after_event hu
    obtain ⟨-, -, -, rfl⟩ := acceptEvent_rx_iff.1 hu
    have ahead := h.bytesUntil_after_store hp d
    exact not_mem_storedOffsets good (received_build s d ▸ h.copying hp) hr (by omega)

/-- Settles O57, by the next state of each event. -/
theorem onlyTicksMoveTheCursor : Obligations.OnlyTicksMoveTheCursor := by
  unfold Obligations.OnlyTicksMoveTheCursor
  intro s t e ht he
  cases e with
  | reset => exact absurd rfl he
  | tick =>
    obtain ⟨-, -, -, rfl⟩ := acceptEvent_tick ht
    exact ⟨fun other => absurd rfl other, rfl⟩
  | txdone =>
    obtain ⟨-, ⟨hw, rfl⟩ | ⟨hw, -, rfl⟩⟩ := acceptEvent_txdone ht <;> rw [hw] <;>
      exact ⟨fun _ => ⟨rfl, rfl, rfl, rfl, rfl⟩, rfl⟩
  | rx d =>
    obtain ⟨-, -, -, rfl⟩ := acceptEvent_rx_iff.1 ht
    rw [received_frame]
    exact ⟨fun _ => ⟨rfl, rfl, rfl, rfl, rfl⟩, rfl⟩

/-- Settles O58: only the second completion drives the strobe or the ports, and its three events are the pulse. -/
theorem portsChangeInsideAStrobePulse : Obligations.PortsChangeInsideAStrobePulse := by
  unfold Obligations.PortsChangeInsideAStrobePulse
  intro s t e ht he
  cases e with
  | reset => exact absurd rfl he
  | tick =>
    obtain ⟨-, -, -, rfl⟩ := acceptEvent_tick ht
    refine .inl (samePorts_of_append ?_ ?_ (tickResult_trace s) ⟨rfl, rfl, rfl⟩) <;> rw [tickResult_frame]
  | txdone =>
    obtain ⟨-, ⟨-, rfl⟩ | ⟨hw, -, rfl⟩⟩ := acceptEvent_txdone ht
    · exact .inl (samePorts_of_append rfl rfl rfl ⟨rfl, rfl, rfl⟩)
    · exact .inr ⟨rfl, hw, rfl, rfl⟩
  | rx d =>
    obtain ⟨-, -, -, rfl⟩ := acceptEvent_rx_iff.1 ht
    have ports := received_ports s d
    have strobe := received_strobe s d
    obtain same | ind := received_trace s d
    · exact .inl (samePorts_of_append ports strobe (same.trans (List.append_nil _).symm) ⟨rfl, rfl, rfl⟩)
    · exact .inl (samePorts_of_append ports strobe ind ⟨rfl, rfl, rfl⟩)

/-- Settles O59: the loader's part stays, and the advance, the fetch and the latch read none of the loader's
registers. -/
theorem sequencerIgnoresTheLoader : Obligations.SequencerIgnoresTheLoader := by
  unfold Obligations.SequencerIgnoresTheLoader
  intro s t e phase k w he ht
  obtain ⟨-, buffer, phase', step', offset', -⟩ := fields_of_loaderPart_eq (loaderPart_of_sequencer he ht)
  refine ⟨buffer, phase', step', offset', ?_⟩
  obtain rfl | rfl := he
  · exact acceptEvent_tick_withLoader phase k w ht
  · exact acceptEvent_txdone_withLoader phase k w ht

/-- Settles O60: the received state is a function of the loader's part and keeps the rest. -/
theorem loaderIgnoresTheSequencer : Obligations.LoaderIgnoresTheSequencer := by
  unfold Obligations.LoaderIgnoresTheSequencer
  intro s t d row level rowOffset b0 b1 strobe ports ht
  have same := acceptEvent_rx_withSequencer row level rowOffset b0 b1 strobe ports ht
  obtain ⟨-, -, -, rfl⟩ := acceptEvent_rx_iff.1 ht
  refine ⟨?_, ?_, ?_, ?_, ?_, ?_, ?_, ?_, same⟩ <;> rw [received_frame]

end

section
/-! RESET and its sub-steps, and what every operation keeps (70_reset_and_hazards.md R210 to R217, 20_memory.md R59).
The obligations of that family. -/

namespace Sys2Proof.Machine

/-! ## What every operation keeps -/

/-- What no operation breaks: the build, a flag that is set, and the buffer but for one byte inside it or a fill. -/
structure Keeps (s t : State) : Prop where
  build   : t.build = s.build
  enabled : s.enabled = true → t.enabled = true
  buffer  : t.fb = s.fb ∨ t.fb = [] ∨ ∃ o v, o < s.build.capacity ∧ t.fb = s.fb.setByte o v

theorem Keeps.refl (s : State) : Keeps s s := ⟨rfl, id, .inl rfl⟩

theorem keeps_advanceCursor (s : State) : Keeps s s.advanceCursor := by
  rw [advanceCursor_frame]
  exact ⟨rfl, id, .inl rfl⟩

theorem keeps_tickResult (s : State) : Keeps s s.tickResult := by
  rw [tickResult_frame]
  exact ⟨rfl, id, .inl rfl⟩

theorem keeps_copyByte {s t : State} {d : Byte} (h : s.copyByte d = .ok t) : Keeps s t := by
  obtain ⟨inside, rfl⟩ := copyByte_eq_ok h
  exact ⟨rfl, id, .inr (.inr ⟨_, _, inside, rfl⟩)⟩

theorem keeps_acceptRx {s t : State} {i : Instr} {mnemonic : String} {k}
    (h : acceptRx s i mnemonic k = .next t) (hk : k = .next t → Keeps s t) : Keeps s t := by
  obtain ⟨-, ⟨-, rfl⟩ | ⟨-, -, served⟩⟩ := acceptRx_eq_next h
  · exact Keeps.refl _
  · exact hk served

/-- The next state that was answered is the one named. -/
theorem keeps_of_next {s t u : State} (h : Host.Outcome.next u = (.next t : Host.Outcome State Fault Refusal))
    (hu : Keeps s u) : Keeps s t := Host.Outcome.next.inj h ▸ hu

/-- Every operation keeps the build, the flag and the buffer's form. -/
theorem exec_keeps {i : Instr} {s t : State} (h : exec i s = .next t) : Keeps s t := by
  cases i
  case reset => exact keeps_of_next h ⟨rfl, fun _ => rfl, .inr (.inl rfl)⟩
  case tick =>
    obtain ⟨-, -, -, rfl⟩ := execTick_eq_next h
    exact keeps_tickResult s
  case txdoneW0 =>
    obtain ⟨-, -, rfl⟩ := execTxdoneW0_eq_next h
    exact ⟨rfl, id, .inl rfl⟩
  case txdoneW1 =>
    obtain ⟨-, -, -, rfl⟩ := execTxdoneW1_eq_next h
    exact ⟨rfl, id, .inl rfl⟩
  case rxM0 | rxM1 | rxM2 | rxM3 | rxM4 | rxM5 | rxRestart | rxMiss d =>
    exact keeps_acceptRx h fun served => keeps_of_next served ⟨rfl, id, .inl rfl⟩
  case rxCopy d | rxCopyLast d =>
    refine keeps_acceptRx h fun served => ?_
    obtain ⟨u, stored, next⟩ := orFault_eq_next served
    obtain ⟨build, enabled, buffer⟩ := keeps_copyByte stored
    exact keeps_of_next next ⟨build, enabled, buffer⟩
  case rFill => exact keeps_of_next h ⟨rfl, id, .inr (.inl rfl)⟩
  case rInit => exact keeps_of_next h ⟨rfl, id, .inl rfl⟩
  case rEnable => exact keeps_of_next h ⟨rfl, fun _ => rfl, .inl rfl⟩
  case tAdvance => exact keeps_of_next h (keeps_advanceCursor s)
  case tFetch =>
    obtain ⟨-, rfl⟩ := fetchRow_eq_next h
    exact ⟨rfl, id, .inl rfl⟩
  case tThresh =>
    obtain ⟨-, rfl⟩ := thresholdRow_eq_next h
    exact ⟨rfl, id, .inl rfl⟩
  case tSel =>
    obtain ⟨-, rfl⟩ := selectPorts_eq_next h
    exact ⟨rfl, id, .inl rfl⟩
  case tPack | tTx0 | tTx1 | tStbHi | tStbLo | pixLo b | pixHi b | pixPack hi lo =>
    exact keeps_of_next h ⟨rfl, id, .inl rfl⟩
  case fbRead o =>
    obtain ⟨b, -, next⟩ := orFault_eq_next h
    exact keeps_of_next next ⟨rfl, id, .inl rfl⟩
  case fbPixel r c =>
    obtain ⟨v, -, next⟩ := orFault_eq_next h
    exact keeps_of_next next ⟨rfl, id, .inl rfl⟩
  case fbWrite o d =>
    obtain ⟨inside, rfl⟩ := exec_fbWrite_eq_next h
    exact ⟨rfl, id, .inr (.inr ⟨o, d, inside, rfl⟩)⟩
  case laneGt v l =>
    rw [exec, execLaneGt] at h
    split at h
    · exact keeps_of_next h ⟨rfl, id, .inl rfl⟩
    · nomatch h
  case select r =>
    rw [exec, execSelect] at h
    split at h
    · exact keeps_of_next h ⟨rfl, id, .inl rfl⟩
    · nomatch h

/-- A fill and a write inside the buffer keep the canonical form. -/
theorem Keeps.memory_wf {s t : State} (h : Keeps s t) (hm : Memory.wf s.build.capacity s.fb) :
    Memory.wf t.build.capacity t.fb := by
  rw [h.build]
  obtain same | filled | ⟨o, v, inside, written⟩ := h.buffer
  · rwa [same]
  · rw [filled]
    exact Memory.nil_wf _
  · rw [written]
    exact Memory.setByte_wf hm inside v

/-! ## After RESET -/

/-- After RESET every byte is accepted (70_reset_and_hazards.md R212). -/
theorem resetResult_accepts_byte (s : State) (d : Byte) :
    acceptEvent s.resetResult (.rx d) = some (s.resetResult.received d) :=
  acceptEvent_rx_seeking rfl rfl rfl d

/-- After RESET the first tick and its two completions are accepted (70_reset_and_hazards.md R212). -/
theorem resetResult_accepts_tick {s : State} (h : s.build.legal) :
    ∃ u v w, exec .tick s.resetResult = .next u ∧ acceptEvent s.resetResult .tick = some u ∧
      acceptEvent u .txdone = some v ∧ acceptEvent v .txdone = some w := by
  have good := inv_resetResult h
  have ticked := good.tickResult rfl
  have waiting : s.resetResult.tickResult.tseq = .wait0 := by rw [tickResult_frame]
  have sent := ticked.transmitSecond waiting
  have accepted := acceptEvent_tick_of_inv good rfl
  exact ⟨_, _, _, (acceptEvent_eq_some accepted).2, accepted, acceptEvent_txdone_wait0 ticked.enabled waiting,
    acceptEvent_txdone_wait1 sent.enabled rfl sent.row⟩

end Sys2Proof.Machine

/-! ## The obligations -/

open Sys2Proof Sys2Proof.Machine

/-- Settles O14, by what every operation keeps. -/
theorem everyOperationKeepsMemoryCanonical : Obligations.EveryOperationKeepsMemoryCanonical := by
  unfold Obligations.EveryOperationKeepsMemoryCanonical
  exact fun i s t h => ⟨(exec_keeps h).build, (exec_keeps h).memory_wf⟩

/-- Settles O15: the three sub-steps in order leave the reset state, which is good. -/
theorem resetLeavesTheResetState : Obligations.ResetLeavesTheResetState := by
  unfold Obligations.ResetLeavesTheResetState
  intro s legal
  exact ⟨s.fillBuffer, s.fillBuffer.initRegisters, s.fillBuffer.initRegisters.enableEvents, s.resetResult, rfl, rfl,
    rfl, rfl, exec_reset s, inv_resetResult legal, fun o _ => Memory.byteAt_nil o, rfl, rfl, rfl, rfl, rfl, rfl, rfl,
    rfl, rfl, rfl, rfl, rfl, rfl, rfl, rfl, rfl⟩

/-- Settles O17: the registers are written in one update. -/
theorem initWritesTheRegisters : Obligations.InitWritesTheRegisters := by
  unfold Obligations.InitWritesTheRegisters
  exact fun s => rfl

/-- Settles O18: the refusals before RESET, the services after it, and that every operation keeps the flag. -/
theorem eventsAreEnabledForEver : Obligations.EventsAreEnabledForEver := by
  unfold Obligations.EventsAreEnabledForEver
  refine ⟨rfl, fun s => rfl, fun s off => ?_, fun s t legal hreset => ?_, fun i s t on h => (exec_keeps h).enabled on⟩
  · have refused (e : Event) (he : e ≠ .reset) := exec_operationOf_beforeReset (e := e) off he
    exact ⟨refused .tick nofun, refused .txdone nofun, fun d => refused (.rx d) nofun⟩
  · obtain rfl := Host.Outcome.next.inj ((exec_reset s).symm.trans hreset)
    exact ⟨fun d => ⟨_, resetResult_accepts_byte s d⟩, resetResult_accepts_tick legal⟩

end

section
/-! Pixels and accesses outside the ranges of the spec (40_framebuffer.md R114, R115, 20_memory.md R57, R59), and the
laws of the selector for all bounds and shifts (41_row_select.md R121 to R124). The obligations of these families. -/

namespace Sys2Proof.Machine

/-! ## Pixels -/

theorem pixPack_toNat (hi lo : Pixel) : (pixPack hi lo).toNat = hi.toNat * 16 + lo.toNat := by
  revert hi lo
  decide

theorem pixelOf_toNat (b : Byte) (c : Nat) :
    (pixelOf b c).toNat = if c % 2 = 0 then b.toNat % 16 else b.toNat / 16 := by
  rw [pixelOf, apply_ite BitVec.toNat, pixLo_toNat, pixHi_toNat]

/-- A pixel of the grid lies in the buffer, and one of a row of ROWS or more lies behind it (20_memory.md R53). -/
theorem pixelAddr_inside {b : Build} {r c : Nat} (hr : r < b.rows) (hc : c < 16) : pixelAddr r c < b.capacity := by
  rw [pixelAddr, byteAddr, capacity_eq, bytesPerRow_eq]
  omega

theorem pixelAddr_outside {b : Build} {r : Nat} (hr : b.rows ≤ r) (c : Nat) : b.capacity ≤ pixelAddr r c := by
  rw [pixelAddr, byteAddr, capacity_eq, bytesPerRow_eq]
  omega

theorem exec_fbPixel_inside {s : State} {r : Nat} (hr : r < s.build.rows) (c : BitVec 4) :
    exec (.fbPixel r c) s = .next (s.giveResult (.pixel (pixelOf (s.fb.byteAt (pixelAddr r c.toNat)) c.toNat))) := by
  rw [exec, execFbPixel, State.pixel, memRead_inside s (pixelAddr_inside hr c.isLt)]
  rfl

/-- The pixels of a memory with one byte replaced (20_memory.md R57). -/
theorem pixel_setByte {cap : Nat} {m : Memory} (hm : Memory.wf cap m) (o : Nat) (d : Byte) (r c : Nat) :
    (m.setByte o d).pixel r c = if pixelAddr r c = o then pixelOf d c else m.pixel r c := by
  rw [Memory.pixel, Memory.byteAt_setByte hm.1, apply_ite (pixelOf · c)]
  rfl

/-! ## Accesses outside the buffer -/

theorem exec_fb_outside {s : State} {o : Nat} (h : s.build.capacity ≤ o) :
    exec (.fbRead o) s = .fault (.addressOutOfRange o) ∧
      ∀ d, exec (.fbWrite o d) s = .fault (.addressOutOfRange o) := by
  refine ⟨?_, fun d => ?_⟩
  · rw [exec, execFbRead, memRead_outside s (Nat.not_lt.2 h), orFault_error]
  · rw [exec, execFbWrite, memWrite_outside s (Nat.not_lt.2 h), orFault_error]

theorem exec_fbPixel_outside {s : State} {r : Nat} (hr : s.build.rows ≤ r) (c : BitVec 4) :
    exec (.fbPixel r c) s = .fault (.addressOutOfRange (pixelAddr r c.toNat)) := by
  rw [exec, execFbPixel, State.pixel, memRead_outside s (Nat.not_lt.2 (pixelAddr_outside hr _))]
  rfl

/-- A computation over the buffer stops for an address only. -/
def StopsByAddress {α : Type} (x : Except Fault α) : Prop := ∀ f, x = .error f → ∃ o, f = .addressOutOfRange o

theorem stopsByAddress_memRead (s : State) (o : Nat) : StopsByAddress (s.memRead o) := by
  intro f h
  rw [State.memRead] at h
  split at h
  · nomatch h
  · exact ⟨o, (Except.error.inj h).symm⟩

theorem StopsByAddress.bind {α β : Type} {x : Except Fault α} {g : α → Except Fault β} (hx : StopsByAddress x)
    (hg : ∀ a, StopsByAddress (g a)) : StopsByAddress (x >>= g) := by
  intro f h
  cases x with
  | ok a => exact hg a f h
  | error e =>
    have same : (.error e : Except Fault β) = .error f := h
    exact hx f (congrArg _ (Except.error.inj same))

theorem stopsByAddress_readRow (s : State) : StopsByAddress s.readRow := by
  unfold State.readRow
  iterate 8 refine (stopsByAddress_memRead s _).bind fun _ => ?_
  exact nofun

theorem exec_tFetch_outside {s : State} (h : s.build.capacity ≤ s.rowOffset + 7) :
    ∃ o, exec .tFetch s = .fault (.addressOutOfRange o) := by
  cases hrow : s.readRow with
  | ok rb => exact absurd (readRow_eq_ok hrow).1 (Nat.not_lt.2 h)
  | error f =>
    obtain ⟨o, rfl⟩ := stopsByAddress_readRow s f hrow
    refine ⟨o, ?_⟩
    rw [exec, execTFetch, fetchRow, hrow, orFault_error]

/-! ## The selector -/

/-- A pattern determines its row: the base of its bank, and the value on the select lines shifted back. -/
theorem row_of_selectWith (n1 n2 shift row : Nat) :
    bankBase n1 n2 (selectWith n1 n2 shift row).bank + (selectWith n1 n2 shift row).sel >>> shift = row := by
  have base := bankBase_bankOf_le n1 n2 row
  simp only [selectWith]
  rw [Nat.shiftLeft_shiftRight]
  omega

/-- The bank of a row holds it. -/
theorem bank_holds_row (n1 n2 shift row : Nat) :
    ((selectWith n1 n2 shift row).bank = 0 → row < n1) ∧ ((selectWith n1 n2 shift row).bank = 1 → row < n2) := by
  rw [(selectWith_bank_sel n1 n2 shift row).1]
  split
  · next first => exact ⟨fun _ => first, nofun⟩
  · split
    · next second => exact ⟨nofun, fun _ => second⟩
    · exact ⟨nofun, nofun⟩

/-- The encoding of a row's pattern determines the row (41_row_select.md R124). -/
theorem portEncode_selectRow_injective {b : Build} {r r' : Nat} (hr : r < b.rows) (hr' : r' < b.rows)
    (h : portEncode b (selectRow b r) = portEncode b (selectRow b r')) : r = r' := by
  have room := b.rows_le_ports
  have digits := (Config.portPerm b.portW).injective (Config.portValues_injective h)
  rw [rowOfPattern_selectRow, rowOfPattern_selectRow] at digits
  exact rowDigits_injective (Nat.lt_of_lt_of_le hr room) (Nat.lt_of_lt_of_le hr' room) digits

end Sys2Proof.Machine

/-! ## The obligations -/

open Sys2Proof Sys2Proof.Machine

/-- Settles O24: the byte of a pixel is the written one or an old one. -/
theorem writeChangesExactlyTwoPixels : Obligations.WriteChangesExactlyTwoPixels := by
  unfold Obligations.WriteChangesExactlyTwoPixels
  exact fun cap m o d r c hm _ => pixel_setByte hm o d r c

/-- Settles O27: the bank of a row holds it, one line is low, and a pattern determines its row. -/
theorem selectorLawsForEveryInstance : Obligations.SelectorLawsForEveryInstance := by
  unfold Obligations.SelectorLawsForEveryInstance
  intro n1 n2 rows shift _ _ _
  refine ⟨fun row _ => ?_, fun r _ r' _ same => ?_⟩
  · obtain ⟨first, second⟩ := bank_holds_row n1 n2 shift row
    refine ⟨_, rfl, fun k hk => ?_, bankBase_bankOf_le n1 n2 row, first, second⟩
    rw [enableLines_getLsbD _ hk, decide_eq_false_iff_not, not_not]
  · rw [← row_of_selectWith n1 n2 shift r, same, row_of_selectWith]

/-- Settles O28, by the open bounds and the injective encoding of the rows. -/
theorem differentRowsDifferentPorts : Obligations.DifferentRowsDifferentPorts := by
  unfold Obligations.DifferentRowsDifferentPorts
  exact fun b legal => ⟨⟨b.bankN1_pos, b.bankN1_lt_bankN2, Build.bankN2_lt_rows legal⟩, fun r _ => portEncode_fits b _,
    fun r hr r' hr' => portEncode_selectRow_injective hr hr'⟩

/-- Settles O22: packing is `hi * 16 + lo`, and nibbles and bytes determine each other. -/
theorem pixPackInvertsUnpacking : Obligations.PixPackInvertsUnpacking := by
  unfold Obligations.PixPackInvertsUnpacking
  exact ⟨fun s hi lo => ⟨pixPack hi lo, pixPack_toNat hi lo, rfl⟩, pixPack_pixHi_pixLo,
    fun h l => ⟨pixLo_pixPack h l, pixHi_pixPack h l⟩⟩

/-- Settles O23: the pixel's byte lies inside the buffer, and the column chooses its nibble. -/
theorem fbPixelReadsItsNibble : Obligations.FbPixelReadsItsNibble := by
  unfold Obligations.FbPixelReadsItsNibble
  exact fun s r c hr => ⟨_, pixelOf_toNat _ _, exec_fbPixel_inside hr c⟩

/-- Settles O25: each clause is one of the stops. -/
theorem outOfRangeStopsByName : Obligations.OutOfRangeStopsByName := by
  unfold Obligations.OutOfRangeStopsByName
  exact ⟨fun s o h => exec_fb_outside h,
    fun s r hr => ⟨if_neg (Nat.not_lt.2 hr), fun c => ⟨_, pixelAddr_outside hr _, exec_fbPixel_outside hr c⟩⟩,
    fun s v => rfl, fun s h => exec_tFetch_outside h, fun s hl => if_neg (Nat.not_lt.2 hl),
    fun s hr => if_neg (Nat.not_lt.2 hr)⟩

end
